-- ==== Sys2Proof/Word.lean ====
section
/-! DEFINITION. The word types: the 8-bit byte of the data space and the engine registers (20_memory.md R62,
00_scope.md R8 REG_WIDTH) and the 16-bit command word (30_encoding.md R81). -/

namespace Sys2Proof

/-- An 8-bit register or operand (00_scope.md R8, decision D2). -/
abbrev Byte := BitVec 8

/-- A command word CMD = {cmd_op[7:0], cmd_arg[7:0]} (30_encoding.md R81). -/
abbrev CmdWord := BitVec 16

end Sys2Proof
end

