-- ==== Sys2Proof/Config.lean ====
section
/-! DEFINITION. The implementation parameters of 00_scope.md R8. They are held together in `Config`, a value that
State carries and no step writes (10_state.md R49; log entry 3), and the constants that the source fixes. -/

namespace Sys2Proof

/-- `START_ACK_CHECK` (00_scope.md R8, 41_sequencer.md R141). -/
inductive AckCheck
  | corrected
  | original
  deriving DecidableEq, Repr

/-- `START_WAIT_NACK_SET` (00_scope.md R8, 41_sequencer.md R143). -/
inductive NackSet
  /-- {MT_SLA_NACK, MR_SLA_NACK}, the default. -/
  | addressNacks
  /-- {MT_SLA_NACK, MR_DATA_NACK}, the alternative. -/
  | upstream
  deriving DecidableEq, Repr

/-- A port bit: the data-space address of its register and its bit position (10_state.md R41, 20_memory.md R64). DESIGN
CHOICE (log entry 25): a position of 8 or more is accepted. -/
structure PortBit where
  addr : Nat
  bit  : Nat
  deriving DecidableEq, Repr

/-- `REG_ADDR`, an OPEN parameter (20_memory.md R64). -/
structure RegAddr where
  ctrl    : Nat
  status  : Nat
  bitrate : Nat
  data    : Nat
  puSda   : PortBit
  puScl   : PortBit
  deriving DecidableEq, Repr

/-- The parameters of 00_scope.md R8 that a model may vary. -/
structure Config where
  /-- `F_CPU` in Hz, OPEN. -/
  fCpu          : Nat
  /-- `START_ACK_CHECK`. -/
  ackCheck      : AckCheck
  /-- `START_WAIT_NACK_SET`. -/
  nackSet       : NackSet
  /-- `START_WAIT_BOUND`: `none` is UNBOUNDED. -/
  waitBound     : Option Nat
  /-- `INIT_STOP_WAIT`, OPEN. -/
  initStopWait  : Bool
  /-- `ADMIT_ABNORMAL`. -/
  admitAbnormal : Bool
  /-- `REG_ADDR`, OPEN. -/
  regAddr       : RegAddr
  deriving DecidableEq, Repr

/-- The spec's example of `REG_ADDR`, the ATmega328P (20_memory.md R64). PRESUMED: the address 0x28 of PORTC
(log entry 3). -/
def RegAddr.atmega328p : RegAddr :=
  { ctrl := 0xBC, status := 0xB9, bitrate := 0xB8, data := 0xBB, puSda := ⟨0x28, 4⟩, puScl := ⟨0x28, 5⟩ }

/-- The defaults of 00_scope.md R8. DESIGN CHOICE (log entry 3): `F_CPU` is OPEN and stands at the 16 MHz that
95_test_vectors.md uses. -/
def Config.default : Config :=
  { fCpu := 16000000, ackCheck := .corrected, nackSet := .addressNacks, waitBound := none,
    initStopWait := false, admitAbnormal := true, regAddr := .atmega328p }

/-- `F_SCL` (00_scope.md R8, source). -/
def fScl : Nat := 100000

/-- `DEV_ADDR`, 7 bits (42_host_transaction.md R161). -/
def devAddr : Nat := 0x5A

/-- `CMD_AMBIENT` (42_host_transaction.md R161). -/
def cmdAmbient : Byte := 0x06

/-- `CMD_OBJECT` (42_host_transaction.md R161). -/
def cmdObject : Byte := 0x07

/-- `SCALE` (00_scope.md R8). -/
def scaleFactor : Int := 2

/-- `OFFSET` (00_scope.md R8). -/
def tempOffset : Int := 27315

/-- `SENTINEL` (42_host_transaction.md R169). -/
def sentinel : Int := -27313

end Sys2Proof
end

