-- ==== Sys2Proof/Syntax.lean ====
section
/-! DEFINITION. The instructions (both levels of 00_scope.md R3), the words they are written in, the phase states
that level (b) is decoded with, and HOST's script notation (30_encoding.md R92, R93). -/

namespace Sys2Proof

/-- The engine's phase state `ph` (10_state.md R43). -/
inductive Phase
  /-- P_IDLE -/
  | idle
  /-- P_STARTED -/
  | started
  /-- P_MT -/
  | mt
  /-- P_MR -/
  | mr
  /-- P_MR_END -/
  | mrEnd
  deriving DecidableEq, Repr

/-- One constructor per row of spec/opcode_table.json: the seven commands of the command port (30_encoding.md R82)
and the seven engine-command rows (30_encoding.md R86). -/
inductive Instr
  | init
  /-- the address byte -/
  | start (addr : Byte)
  /-- the address byte -/
  | startWait (addr : Byte)
  /-- the data byte -/
  | write (data : Byte)
  | readAck
  | readNack
  | stop
  | eConfig
  | eStart
  /-- E_SEND (ph = P_STARTED) -/
  | eSendAddr
  /-- E_SEND (ph = P_MT) -/
  | eSendData
  | eRecvAck
  | eRecvNack
  | eStop
  deriving DecidableEq, Repr

/-- The two kinds of word: a command on the command port (30_encoding.md R81) and a value written to CTRL
(30_encoding.md R86). -/
inductive CodeWord
  | cmd (w : CmdWord)
  | ctrl (v : Byte)
  deriving DecidableEq, Repr

/-- The values HOST's RETURN names: a number, or the conversion of two HOST variables (30_encoding.md R92,
42_host_transaction.md R164). -/
inductive HostExpr
  | num (v : Int)
  | conv (lsb msb : Nat)
  deriving DecidableEq, Repr

/-- A statement of HOST's program with its branch targets resolved to statement indexes (30_encoding.md R92).
A command is its CMD word, so that HOST can issue a reserved one too. -/
inductive HostStmt
  | cmd (w : CmdWord)
  | save (var : Nat)
  | ifResult (v : Byte) (target : Nat)
  | ret (e : HostExpr)
  deriving DecidableEq, Repr

/-- A line of the script notation: a command, a directive, a label, or a pseudo-instruction
(30_encoding.md R92, R93). -/
inductive HostLine
  | cmd (i : Instr)
  | label (l : Nat)
  | save (var : Nat)
  | ifResult (v : Byte) (l : Nat)
  | ret (e : HostExpr)
  | startW (a7 : Nat)
  | startR (a7 : Nat)
  | startWaitW (a7 : Nat)
  | startWaitR (a7 : Nat)
  | getTemp (sel : Nat) (absent : Nat)
  deriving DecidableEq, Repr

end Sys2Proof
end

