-- ==== Sys2Proof/WellFormed.lean ====
section
/-! DEFINITION. Which instructions stand in a phase state, and which script lines and scripts the assembler accepts. -/

namespace Sys2Proof

/-- The opcode table's condition on `ph` (30_encoding.md R87): an engine row means something only in the phase
states it names. A command carries no condition here, since its legality is checked at issue (41_sequencer.md R133). -/
def Instr.wellFormedIn (ph : Phase) : Instr → Bool
  | .init | .start _ | .startWait _ | .write _ | .readAck | .readNack | .stop => true
  | .eConfig | .eStart | .eStop => true
  | .eSendAddr => ph == .started
  | .eSendData => ph == .mt
  | .eRecvAck | .eRecvNack => ph == .mr

/-- The instructions that are commands of the command port (30_encoding.md R82). -/
def Instr.isCommand : Instr → Bool
  | .init | .start _ | .startWait _ | .write _ | .readAck | .readNack | .stop => true
  | .eConfig | .eStart | .eSendAddr | .eSendData | .eRecvAck | .eRecvNack | .eStop => false

/-- A 7-bit address operand of a pseudo-instruction (30_encoding.md R93). -/
def addr7Ok (a7 : Nat) : Bool := decide (a7 ≤ 0x7F)

/-- A line the assembler accepts (30_encoding.md R93): a 7-bit address is at most 0x7F, and a command line holds a
command of the port, never an engine command (20_memory.md R63). -/
def HostLine.wellFormed : HostLine → Bool
  | .cmd i => i.isCommand
  | .startW a | .startR a | .startWaitW a | .startWaitR a => addr7Ok a
  | .label _ | .save _ | .ifResult _ _ | .ret _ | .getTemp _ _ => true

/-- The labels a line defines. -/
def HostLine.defines : HostLine → List Nat
  | .label l => [l]
  | .getTemp _ l => [l]
  | .cmd _ | .save _ | .ifResult _ _ | .ret _ | .startW _ | .startR _ | .startWaitW _ | .startWaitR _ => []

/-- The labels a line branches to. -/
def HostLine.uses : HostLine → List Nat
  | .ifResult _ l => [l]
  | .getTemp _ l => [l]
  | .cmd _ | .label _ | .save _ | .ret _ | .startW _ | .startR _ | .startWaitW _ | .startWaitR _ => []

/-- No label stands twice (log entry 23). -/
def distinctLabels : List Nat → Bool
  | [] => true
  | l :: ls => !ls.contains l && distinctLabels ls

/-- A script the assembler accepts: every line is accepted, no label is defined twice and every label used is
defined. DESIGN CHOICE (log entry 23): 30_encoding.md R92 does not say what a script with a label defined twice, or a
branch to a label never defined, is. -/
def scriptWellFormed (ls : List HostLine) : Bool :=
  ls.all HostLine.wellFormed && distinctLabels (ls.flatMap HostLine.defines)
    && (ls.flatMap HostLine.uses).all (ls.flatMap HostLine.defines).contains

end Sys2Proof
end

