-- ==== Sys2Proof/Decode.lean ====
section
/-! DEFINITION. The decoder of both word kinds, total on every word and rejecting by name, and the encoder written
from the same tables (30_encoding.md R81 to R87). -/

namespace Sys2Proof

/-- Why a word is no instruction. -/
inductive Reject
  /-- OP = 0x00 or OP = 0x08 to 0xFF (30_encoding.md R83). -/
  | reservedOp
  /-- A nonzero ARG with INIT, READ_ACK, READ_NACK or STOP (30_encoding.md R84). -/
  | reservedArg
  /-- A CTRL value other than the five that SEQ writes (40_engine.md R123). -/
  | ctrlValue
  /-- A CTRL value that launches nothing in this phase state (30_encoding.md R87). -/
  | ctrlPhase
  deriving DecidableEq, Repr

/-- OP, bits 15:8 of CMD (30_encoding.md R81). -/
def cmdOpField (w : CmdWord) : Byte := w.extractLsb' 8 8

/-- ARG, bits 7:0 of CMD (30_encoding.md R81). -/
def cmdArgField (w : CmdWord) : Byte := w.extractLsb' 0 8

/-- CMD = {OP, ARG} (30_encoding.md R81). -/
def cmdOf (op arg : Byte) : CmdWord := op ++ arg

/-- An operation whose ARG must be 0x00 (30_encoding.md R84). -/
def noOperand (arg : Byte) (i : Instr) : Except Reject Instr :=
  if arg = 0x00 then .ok i else .error .reservedArg

/-- The opcode map (30_encoding.md R82 to R85). -/
def decodeCmd (w : CmdWord) : Except Reject Instr :=
  let arg := cmdArgField w
  match (cmdOpField w).toNat with
  | 0x01 => noOperand arg .init
  | 0x02 => .ok (.start arg)
  | 0x03 => .ok (.startWait arg)
  | 0x04 => .ok (.write arg)
  | 0x05 => noOperand arg .readAck
  | 0x06 => noOperand arg .readNack
  | 0x07 => noOperand arg .stop
  | _ => .error .reservedOp

/-- The value 0x84 is decoded by ph (30_encoding.md R87). -/
def decode84 : Phase → Except Reject Instr
  | .started => .ok .eSendAddr
  | .mt => .ok .eSendData
  | .mr => .ok .eRecvNack
  | .idle | .mrEnd => .error .ctrlPhase

/-- The value 0xC4 is E_RECV_ACK only in P_MR (30_encoding.md R87). -/
def decodeC4 : Phase → Except Reject Instr
  | .mr => .ok .eRecvAck
  | .idle | .started | .mt | .mrEnd => .error .ctrlPhase

/-- The engine commands (30_encoding.md R86, R87; 40_engine.md R123). -/
def decodeCtrl (ph : Phase) (v : Byte) : Except Reject Instr :=
  match v.toNat with
  | 0x44 => .ok .eConfig
  | 0xA4 => .ok .eStart
  | 0x84 => decode84 ph
  | 0xC4 => decodeC4 ph
  | 0x94 => .ok .eStop
  | _ => .error .ctrlValue

/-- The decoder of both levels (30_encoding.md R91). -/
def decode (ph : Phase) : CodeWord → Except Reject Instr
  | .cmd w => decodeCmd w
  | .ctrl v => decodeCtrl ph v

/-- The words of an instruction (30_encoding.md R82, R86). -/
def encode : Instr → CodeWord
  | .init => .cmd (cmdOf 0x01 0x00)
  | .start a => .cmd (cmdOf 0x02 a)
  | .startWait a => .cmd (cmdOf 0x03 a)
  | .write d => .cmd (cmdOf 0x04 d)
  | .readAck => .cmd (cmdOf 0x05 0x00)
  | .readNack => .cmd (cmdOf 0x06 0x00)
  | .stop => .cmd (cmdOf 0x07 0x00)
  | .eConfig => .ctrl 0x44
  | .eStart => .ctrl 0xA4
  | .eSendAddr => .ctrl 0x84
  | .eSendData => .ctrl 0x84
  | .eRecvAck => .ctrl 0xC4
  | .eRecvNack => .ctrl 0x84
  | .eStop => .ctrl 0x94

/-- A phase state in which a CTRL value of the table has a meaning. DESIGN CHOICE (log entry 14): a table word of
level (b) carries no ph, and 0x84 stands in three rows, of which this takes the first. -/
def tablePhase (v : Byte) : Phase :=
  if v = 0x84 then .started else if v = 0xC4 then .mr else .idle

/-- The instruction the decoder reads from a row's bits: 16 bits are a command, 8 bits a CTRL value in the phase
state of `tablePhase`. -/
def decodeTableWord (nbits w : Nat) : Option Instr :=
  if nbits = 16 then (decode .idle (.cmd (BitVec.ofNat 16 w))).toOption
  else if nbits = 8 then (decode (tablePhase (BitVec.ofNat 8 w)) (.ctrl (BitVec.ofNat 8 w))).toOption
  else none

end Sys2Proof
end

