-- ==== Sys2Proof/Machine/State.lean ====
section
/-! DEFINITION. The state of the machine as plain data (10_state.md), its reset value (10_state.md R47) and the reasons
a step can stop. -/

namespace Sys2Proof.Machine

/-- The operation in progress (10_state.md R26). -/
inductive Op
  | none
  | init
  | start
  | startWait
  | write
  | readAck
  | readNack
  | stop
  deriving DecidableEq, Repr

/-- INIT's labels (41_sequencer.md R137). -/
inductive InitLabel
  | i0 | i1 | i2 | i3 | i4 | i5 | i6
  deriving DecidableEq, Repr

/-- START's labels (41_sequencer.md R139). -/
inductive StartLabel
  | s0 | s1 | s2 | s3 | s4 | s5 | s6
  deriving DecidableEq, Repr

/-- START_WAIT's labels (41_sequencer.md R143). -/
inductive WaitLabel
  | w0 | w1 | w2 | w3 | w4 | w5 | w6 | w7 | w8
  deriving DecidableEq, Repr

/-- WRITE's labels (41_sequencer.md R145). -/
inductive WriteLabel
  | t0 | t1 | t2 | t3
  deriving DecidableEq, Repr

/-- READ_ACK's labels (41_sequencer.md R146). -/
inductive ReadAckLabel
  | a0 | a1 | a2
  deriving DecidableEq, Repr

/-- READ_NACK's labels (41_sequencer.md R147). -/
inductive ReadNackLabel
  | n0 | n1 | n2
  deriving DecidableEq, Repr

/-- STOP's labels (41_sequencer.md R148). -/
inductive StopLabel
  | p0 | p1
  deriving DecidableEq, Repr

/-- The micro-step counter's values: a label of one operation's micro-program (10_state.md R26). -/
inductive Label
  | init (l : InitLabel)
  | start (l : StartLabel)
  | startWait (l : WaitLabel)
  | write (l : WriteLabel)
  | readAck (l : ReadAckLabel)
  | readNack (l : ReadNackLabel)
  | stop (l : StopLabel)
  deriving DecidableEq, Repr

/-- The phase ENGINE is performing (10_state.md R44). -/
inductive Inflight
  | none
  | start
  | send
  | recvAck
  | recvNack
  | stop
  deriving DecidableEq, Repr

/-- The thirteen status codes (10_state.md R36, R37). -/
inductive Code
  | busError
  | start
  | repStart
  | mtSlaAck
  | mtSlaNack
  | mtDataAck
  | mtDataNack
  | arbLost
  | mrSlaAck
  | mrSlaNack
  | mrDataAck
  | mrDataNack
  | noInfo
  deriving DecidableEq, Repr

/-- ABN, the abnormal outcomes of a phase (10_state.md R46). -/
inductive Abnormal
  | busError
  | arbLost
  deriving DecidableEq, Repr

/-- The acknowledge bit (10_state.md R45). -/
inductive Ack
  | ack
  | nack
  deriving DecidableEq, Repr

/-- The wire-level events (10_state.md R45). -/
inductive Event
  | start
  | repStart
  | addr (b : Byte) (a : Ack)
  | tx (b : Byte) (a : Ack)
  | rx (v : Byte) (a : Ack)
  | stop
  | abnormal (c : Abnormal)
  deriving DecidableEq, Repr

/-- BUS's answer to a completion (10_state.md R46): OK for a START phase, ACK or NACK for a SEND phase, a byte for a
RECV phase, or an abnormal outcome. -/
inductive Answer
  | ok
  | bit (a : Ack)
  | byte (v : Byte)
  | abnormal (c : Abnormal)
  deriving DecidableEq, Repr

/-- One element of the inputs to come (log entries 8, 9, 16): whose turn it is, with BUS's answer for ENGINE, or the
reset event of 70_reset_and_hazards.md R196. -/
inductive Turn
  | host
  | seq
  | engine (o : Answer)
  | reset
  deriving DecidableEq, Repr

/-- The engine registers of the data space (10_state.md R30). -/
inductive Reg
  | ctrl
  | status
  | bitrate
  | data
  deriving DecidableEq, Repr

/-- The two pull-up port bits (10_state.md R41). -/
inductive PullUp
  | sda
  | scl
  deriving DecidableEq, Repr

/-- The codes FCODE records (60_exceptions.md R177). -/
inductive FaultCode
  /-- F_RESERVED -/
  | reserved
  /-- F_BUSY -/
  | busy
  /-- F_NOT_ENABLED -/
  | notEnabled
  /-- F_SEQUENCE -/
  | sequence
  deriving DecidableEq, Repr

/-- CTRL by its fields (10_state.md R31). Bit 1 is reserved, reads 0 and has no storage. -/
structure Ctrl where
  /-- INT, bit 7, the transfer interrupt flag (10_state.md R32). -/
  int : Bool
  /-- EA, bit 6, ack-enable. -/
  ea  : Bool
  /-- STA, bit 5, start. -/
  sta : Bool
  /-- STO, bit 4, stop. -/
  sto : Bool
  /-- WC, bit 3, write collision (10_state.md R33). -/
  wc  : Bool
  /-- EN, bit 2, enable. -/
  en  : Bool
  /-- IE, bit 0, interrupt enable (10_state.md R34). -/
  ie  : Bool
  deriving DecidableEq, Repr

/-- The whole machine: the command port and its outputs, SEQ, the engine registers and hidden engine state, the bus
trace, HOST, and the model's own fields `cfg`, `turns`, `hostTaken`,
`readFailed` and `hostHung`. -/
structure State where
  /-- the parameters of 00_scope.md R8 (log entry 3) -/
  cfg       : Config
  /-- the inputs to come (log entry 8) -/
  turns     : List Turn
  /-- cmd_op (10_state.md R22) -/
  cmdOp     : Byte
  /-- cmd_arg (10_state.md R22) -/
  cmdArg    : Byte
  /-- cmd_issue, the one-step strobe (10_state.md R22) -/
  cmdIssue  : Bool
  /-- BUSY (10_state.md R23) -/
  busy      : Bool
  /-- RESULT (10_state.md R24) -/
  result    : Byte
  /-- FAULT (10_state.md R25) -/
  fault     : Bool
  /-- FCODE (10_state.md R25) -/
  fcode     : BitVec 4
  /-- op (10_state.md R26) -/
  op        : Op
  /-- arg (10_state.md R26) -/
  arg       : Byte
  /-- mpc (10_state.md R26) -/
  mpc       : Label
  /-- twst (10_state.md R27) -/
  twst      : Byte
  /-- attempts (10_state.md R28) -/
  attempts  : Nat
  /-- CTRL (10_state.md R31) -/
  ctrl      : Ctrl
  /-- STATUS.CODE (10_state.md R35) -/
  code      : Code
  /-- STATUS.PS (10_state.md R35) -/
  ps        : BitVec 2
  /-- BITRATE (10_state.md R38) -/
  bitrate   : Byte
  /-- DATA (10_state.md R39) -/
  data      : Byte
  /-- PU_SDA (10_state.md R41) -/
  puSda     : Bool
  /-- PU_SCL (10_state.md R41) -/
  puScl     : Bool
  /-- ph (10_state.md R43) -/
  ph        : Phase
  /-- inflight (10_state.md R44) -/
  inflight  : Inflight
  /-- trace, oldest event first (10_state.md R45) -/
  trace     : List Event
  /-- HOST's program (30_encoding.md R92; log entry 11) -/
  script    : List HostStmt
  /-- HOST's place in its program -/
  hostPc    : Nat
  /-- HOST's variables, sorted by number, a variable not listed reading 0x00 (10_state.md R29) -/
  hostVars  : List Host.Cell
  /-- whether HOST waits for BUSY = 0 before each statement (70_reset_and_hazards.md R205) -/
  hostWaits : Bool
  /-- the value HOST's program returned, once it has -/
  hostRet   : Option Int
  /-- the statements HOST has taken, the latest first (log entry 26) -/
  hostTaken : List HostStmt
  /-- whether the last READ phase to complete ended in an abnormal outcome (42_host_transaction.md R172; log entry 26) -/
  readFailed : Bool
  /-- whether HOST's program hung at a RETURN that has no value (42_host_transaction.md R172; log entry 26) -/
  hostHung  : Bool
  deriving DecidableEq, Repr

/-- Why a step stops. -/
inductive Fault
  /-- FAULT = 1: SEQ, ENGINE and HOST have no step, and the faulted state is never a successful end
  (41_sequencer.md R136, 60_exceptions.md R176). Raised by every step and every instruction of a faulted state.
  Safe: nothing more can be shown of the run. -/
  | quiescent
  deriving DecidableEq, Repr

/-- Why the model gives no step. -/
inductive Refusal
  /-- An instruction that has no meaning yet. Raised by exec's arms alone. Safe. -/
  | notModelled (mnemonic : String)
  /-- A configuration with DIV outside 0..255, or a START_WAIT_BOUND of 0, which 00_scope.md R8 refuses. Raised by
  every step under it. Safe. -/
  | configuration
  deriving DecidableEq, Repr

/-- The state after reset under the parameters `cfg` (10_state.md R47). DESIGN CHOICE for the values R47 does not
give: twst 0x00 (log entry 5), mpc the label I0 (log entry 6), the port inputs 0 (log entry 7), HOST with no program
(log entry 11) and no input to come (log entry 8). -/
def State.resetWith (cfg : Config) : State :=
  { cfg := cfg, turns := [],
    cmdOp := 0x00, cmdArg := 0x00, cmdIssue := false,
    busy := false, result := 0x00, fault := false, fcode := 0x0,
    op := .none, arg := 0x00, mpc := .init .i0, twst := 0x00, attempts := 0,
    ctrl := { int := false, ea := false, sta := false, sto := false, wc := false, en := false, ie := false },
    code := .noInfo, ps := 0, bitrate := 0x00, data := 0xFF, puSda := false, puScl := false,
    ph := .idle, inflight := .none, trace := [],
    script := [], hostPc := 0, hostVars := [], hostWaits := true, hostRet := none, hostTaken := [],
    readFailed := false, hostHung := false }

/-- The machine right after reset, under the defaults of 00_scope.md R8. -/
def State.reset : State := State.resetWith Config.default

end Sys2Proof.Machine
end

