-- ==== Sys2Proof/Machine/Flags.lean ====
section
/-! DEFINITION. Every register packing, status code and flag computation: CTRL and STATUS as bytes, the code values,
the fault numbers, and the three status checks of the micro-programs. -/

namespace Sys2Proof.Machine

/-- The code values of 10_state.md R36 (`STATUS_CODES`; log entry 2). -/
def Code.value : Code → Byte
  | .busError => 0x00
  | .start => 0x08
  | .repStart => 0x10
  | .mtSlaAck => 0x18
  | .mtSlaNack => 0x20
  | .mtDataAck => 0x28
  | .mtDataNack => 0x30
  | .arbLost => 0x38
  | .mrSlaAck => 0x40
  | .mrSlaNack => 0x48
  | .mrDataAck => 0x50
  | .mrDataNack => 0x58
  | .noInfo => 0xF8

/-- The status code of an abnormal outcome (40_engine.md R113). -/
def Abnormal.code : Abnormal → Code
  | .busError => .busError
  | .arbLost => .arbLost

/-- FCODE's numbers (60_exceptions.md R177). -/
def FaultCode.value : FaultCode → BitVec 4
  | .reserved => 0x1
  | .busy => 0x2
  | .notEnabled => 0x3
  | .sequence => 0x4

/-- One bit as a byte with that bit at position `pos`. -/
def bitAt (b : Bool) (pos : Nat) : Byte := (BitVec.ofBool b).zeroExtend 8 <<< pos

/-- RegRead(CTRL): {INT, EA, STA, STO, WC, EN, 0, IE} (40_engine.md R102). -/
def ctrlByte (c : Ctrl) : Byte :=
  bitAt c.int 7 ||| bitAt c.ea 6 ||| bitAt c.sta 5 ||| bitAt c.sto 4 ||| bitAt c.wc 3 ||| bitAt c.en 2
    ||| bitAt c.ie 0

/-- RegRead(STATUS): {CODE, 0, PS} (40_engine.md R105). -/
def statusByte (c : Code) (ps : BitVec 2) : Byte := c.value ||| ps.zeroExtend 8

/-- code(STATUS), the top five bits in place (00_scope.md R11). -/
def codeOf (v : Byte) : Byte := v &&& 0xF8

/-- The fields a CTRL write writes: EA, STA, STO, EN and IE. INT, WC and the reserved bit keep their values
(40_engine.md R103). -/
def Ctrl.written (c : Ctrl) (w : Byte) : Ctrl :=
  { c with ea := w.getLsbD 6, sta := w.getLsbD 5, sto := w.getLsbD 4, en := w.getLsbD 2, ie := w.getLsbD 0 }

/-- A CTRL write with bit 7 = 1 is a launch (40_engine.md R103). -/
def isLaunch (w : Byte) : Bool := w.getLsbD 7

/-- The five CTRL values that SEQ writes (40_engine.md R123). -/
def ctrlValueUsed (w : Byte) : Bool := w == 0x44 || w == 0xA4 || w == 0x84 || w == 0xC4 || w == 0x94

/-- The start-phase check fails unless the status is START or REP_START (41_sequencer.md R140). -/
def startFail (t : Byte) : Bool := t != Code.start.value && t != Code.repStart.value

/-- START's address check under `START_ACK_CHECK` (41_sequencer.md R141). -/
def addrFail : AckCheck → Byte → Bool
  | .corrected, t => t != Code.mtSlaAck.value && t != Code.mrSlaAck.value
  | .original, t => t != Code.mtSlaAck.value || t != Code.mrSlaAck.value

/-- START_WAIT's NACK set (41_sequencer.md R143). -/
def nackRetry : NackSet → Byte → Bool
  | .addressNacks, t => t == Code.mtSlaNack.value || t == Code.mrSlaNack.value
  | .upstream, t => t == Code.mtSlaNack.value || t == Code.mrDataNack.value

/-- WRITE's check: the data byte was acknowledged (41_sequencer.md R145). -/
def writeFail (t : Byte) : Bool := t != Code.mtDataAck.value

/-- A 0/1 return code: 0x00 for success, 0x01 for failure (10_state.md R24). -/
def returnCode (fail : Bool) : Byte := if fail then 0x01 else 0x00

end Sys2Proof.Machine
end

