-- ==== Sys2Proof/Machine/Operands.lean ====
section
/-! DEFINITION. Every operand form: the address byte and its direction bit, the bit-rate divisor and the configuration
check on it, a command word as hex digits, and HOST's conversion of the two bytes read. -/

namespace Sys2Proof.Machine

/-- WRITE_MODE (30_encoding.md R89). -/
def writeMode : Nat := 0

/-- READ_MODE (30_encoding.md R89). -/
def readMode : Nat := 1

/-- SLA+R/W, the address byte ((addr7 << 1) | dir) & 0xFF (30_encoding.md R88). -/
def addrByte (addr7 dir : Nat) : Byte := BitVec.ofNat 8 (addr7 <<< 1 ||| dir)

/-- The direction bit of an address byte: set means read (40_engine.md R114). -/
def isRead (b : Byte) : Bool := b.getLsbD 0

/-- DIV = ((F_CPU / F_SCL) - 16) / 2 on integers (41_sequencer.md R137). DESIGN CHOICE (log entry 4): the last
division rounds down, so that a negative numerator gives a negative DIV. -/
def divisor (cfg : Config) : Int := ((cfg.fCpu / fScl : Nat) - 16 : Int) / 2

/-- DIV as the byte INIT writes to BITRATE (41_sequencer.md R137). -/
def divisorByte (cfg : Config) : Byte := BitVec.ofInt 8 (divisor cfg)

/-- A configuration the model accepts: DIV in 0..255, and a bound of at least 1 where there is one
(00_scope.md R8). DESIGN CHOICE (log entry 25): REG_ADDR is not checked, so addresses that coincide and
bit positions of 8 or more are accepted. -/
def configOk (cfg : Config) : Bool :=
  decide (0 ≤ divisor cfg) && decide (divisor cfg ≤ 255) && cfg.waitBound != some 0

/-- The SCL frequency F_CPU / (16 + 2 * BITRATE * 4^PS) in Hz (70_reset_and_hazards.md R210). DESIGN CHOICE (log entry
27): the quotient is rounded down. No step reads it. -/
def sclHz (cfg : Config) (bitrate : Byte) (ps : BitVec 2) : Nat :=
  cfg.fCpu / (16 + 2 * bitrate.toNat * 4 ^ ps.toNat)

/-- A hex digit of a number below 16. -/
def hexDigit (n : Nat) : Char := if n < 10 then Char.ofNat (48 + n) else Char.ofNat (55 + n)

/-- A CMD word as four hex digits, the form HOST's notation writes it in (30_encoding.md R92). -/
def cmdHex (w : CmdWord) : List Char :=
  [hexDigit (w.extractLsb' 12 4).toNat, hexDigit (w.extractLsb' 8 4).toNat,
   hexDigit (w.extractLsb' 4 4).toNat, hexDigit (w.extractLsb' 0 4).toNat]

/-- raw = {msb, lsb} (42_host_transaction.md R165). -/
def rawOf (lsb msb : Byte) : BitVec 16 := msb ++ lsb

/-- wrap16 (00_scope.md R9). -/
def wrap16 (v : Int) : Int := v % 65536

/-- sext16 of a number in 0..65535 (00_scope.md R9). -/
def sext16 (v : Int) : Int := if v ≥ 32768 then v - 65536 else v

/-- The conversion to 0.01 °C with its 16-bit wrap (42_host_transaction.md R166). -/
def convert (lsb msb : Byte) : Int :=
  sext16 (wrap16 (sext16 ((rawOf lsb msb).toNat : Int) * scaleFactor - tempOffset))

/-- cmd(sel): any nonzero selector is ambient (42_host_transaction.md R163). -/
def tempCommand (sel : Nat) : Byte := if sel = 0 then cmdObject else cmdAmbient

end Sys2Proof.Machine
end

