-- ==== Sys2Proof/Machine/Ops.lean ====
section
/-! DEFINITION. The named operations over the state: raising a fault, finishing an operation, reading and writing the
engine registers, launching a phase, issuing a command, and the reset event. -/

namespace Sys2Proof.Machine

/-- `raise Fault(code)`: the one way a fault is taken. It records FAULT and FCODE and does nothing else
(60_exceptions.md R176). There is no saved state, no vector and no return (60_exceptions.md R183, R184). -/
def State.raise (s : State) (c : FaultCode) : State := { s with fault := true, fcode := c.value }

/-- `finish(v)` (41_sequencer.md R135). -/
def State.finish (s : State) (v : Byte) : State := { s with result := v, op := .none, busy := false }

/-- `mpc <- l` (00_scope.md R10). -/
def State.goto (s : State) (l : Label) : State := { s with mpc := l }

/-- `emit(e)` (00_scope.md R10). -/
def State.emit (s : State) (e : Event) : State := { s with trace := s.trace ++ [e] }

/-- A step of an agent or an instruction: a faulted state has none (41_sequencer.md R136). -/
def whenLive (s t : State) : Host.Outcome State Fault Refusal :=
  if s.fault then .fault .quiescent else .next t

/-- The rest of a step after its register access: not taken when the access raised a fault, which ends the step
(60_exceptions.md R176). -/
def afterAccess (r : Host.Outcome State Fault Refusal) (k : State → State) : Host.Outcome State Fault Refusal :=
  match r with
  | .next t => .next (if t.fault then t else k t)
  | .fault f => .fault f
  | .refused f => .refused f

/-! ### The engine registers -/

/-- The phase a launch value starts, if it has a meaning in `ph` (40_engine.md R104, 30_encoding.md R87). -/
def launchOf (w : Byte) (ph : Phase) : Option Inflight :=
  if w = 0xA4 then some .start
  else if w = 0x94 then some .stop
  else if w = 0x84 then
    match ph with
    | .started | .mt => some .send
    | .mr => some .recvNack
    | .idle | .mrEnd => none
  else if w = 0xC4 then
    match ph with
    | .mr => some .recvAck
    | .idle | .started | .mt | .mrEnd => none
  else none

/-- `launch`: the phase is in flight, or the launch has no meaning and faults (40_engine.md R104). -/
def launch (phase : Option Inflight) (s : State) : State :=
  match phase with
  | some f => { s with inflight := f }
  | none => s.raise .sequence

/-- A CTRL write of a value SEQ uses, launching `phase` when bit 7 is set (40_engine.md R103). The field writes come
first, so a launch that faults leaves them made (40_engine.md R104). -/
def ctrlCommand (w : Byte) (phase : Option Inflight) (s : State) : State :=
  if s.inflight ≠ .none then s.raise .sequence
  else if isLaunch w then launch phase { s with ctrl := { s.ctrl.written w with int := false } }
  else { s with ctrl := s.ctrl.written w }

/-- RegWrite(CTRL, w), with the checks in the order of 60_exceptions.md R182 (40_engine.md R103, R122, R123). -/
def writeCtrl (w : Byte) (s : State) : State :=
  if s.inflight ≠ .none then s.raise .sequence
  else if ctrlValueUsed w then ctrlCommand w (launchOf w s.ph) s
  else s.raise .sequence

/-- RegWrite(STATUS, v): PS alone is written (40_engine.md R106). -/
def writeStatus (v : Byte) (s : State) : State :=
  if s.inflight ≠ .none then s.raise .sequence else { s with ps := v.extractLsb' 0 2 }

/-- RegWrite(BITRATE, v) (40_engine.md R107). -/
def writeBitrate (v : Byte) (s : State) : State :=
  if s.inflight ≠ .none then s.raise .sequence else { s with bitrate := v }

/-- RegWrite(DATA, v): stored while INT = 1, dropped with WC set otherwise (40_engine.md R109). -/
def writeData (v : Byte) (s : State) : State :=
  if s.inflight ≠ .none then s.raise .sequence
  else if s.ctrl.int then { s with data := v, ctrl := { s.ctrl with wc := false } }
  else { s with ctrl := { s.ctrl with wc := true } }

/-- RegWrite (00_scope.md R10). -/
def regWrite (r : Reg) (v : Byte) (s : State) : State :=
  match r with
  | .ctrl => writeCtrl v s
  | .status => writeStatus v s
  | .bitrate => writeBitrate v s
  | .data => writeData v s

/-- RegRead; no read has a side effect (40_engine.md R102, R105, R107, R108). -/
def regRead (r : Reg) (s : State) : Byte :=
  match r with
  | .ctrl => ctrlByte s.ctrl
  | .status => statusByte s.code s.ps
  | .bitrate => s.bitrate
  | .data => s.data

/-- PortWrite (00_scope.md R10, 10_state.md R41). -/
def portWrite (p : PullUp) (v : Bool) (s : State) : State :=
  match p with
  | .sda => { s with puSda := v }
  | .scl => { s with puScl := v }

/-- The data-space address of a register, REG_ADDR(r) (20_memory.md R64). -/
def regAddrOf (m : RegAddr) : Reg → Nat
  | .ctrl => m.ctrl
  | .status => m.status
  | .bitrate => m.bitrate
  | .data => m.data

/-- The register at a data-space address. The block reaches no other location (20_memory.md R61). DESIGN CHOICE (log
entry 25): where REG_ADDR puts two registers at one address, the first of CTRL, STATUS, BITRATE and DATA. -/
def locate (m : RegAddr) (a : Nat) : Option Reg :=
  if a = m.ctrl then some .ctrl
  else if a = m.status then some .status
  else if a = m.bitrate then some .bitrate
  else if a = m.data then some .data
  else none

/-- The four register addresses are distinct. -/
def regAddrDistinct (m : RegAddr) : Bool := decide ([m.ctrl, m.status, m.bitrate, m.data].Nodup)

/-- MemRead(a, 1) (00_scope.md R10): no location where the block reaches none. -/
def memRead (a : Nat) (s : State) : Option Byte := (locate s.cfg.regAddr a).map fun r => regRead r s

/-- MemWrite(a, 1, v) (00_scope.md R10). -/
def memWrite (a : Nat) (v : Byte) (s : State) : Option State :=
  (locate s.cfg.regAddr a).map fun r => regWrite r v s

/-- The place of a pull-up port bit, REG_ADDR's part for it (20_memory.md R64). -/
def portBitOf (m : RegAddr) : PullUp → PortBit
  | .sda => m.puSda
  | .scl => m.puScl

/-- The pull-up at a place. DESIGN CHOICE (log entry 25): where REG_ADDR puts both at one place, PU_SDA. -/
def locateBit (m : RegAddr) (b : PortBit) : Option PullUp :=
  if b = m.puSda then some .sda else if b = m.puScl then some .scl else none

/-- A write of one port bit by its place (10_state.md R41, 20_memory.md R64). -/
def memWriteBit (b : PortBit) (v : Bool) (s : State) : Option State :=
  (locateBit s.cfg.regAddr b).map fun p => portWrite p v s

/-! ### Issuing a command -/

/-- An operation's first label (41_sequencer.md R131). -/
def firstLabel : Op → Label
  | .none => .init .i0
  | .init => .init .i0
  | .start => .start .s0
  | .startWait => .startWait .w0
  | .write => .write .t0
  | .readAck => .readAck .a0
  | .readNack => .readNack .n0
  | .stop => .stop .p0

/-- The legality table: the fault an operation raises at issue, if it is not legal (41_sequencer.md R133). -/
def legalFault (op : Op) (s : State) : Option FaultCode :=
  match op with
  | .none | .init => none
  | .start | .startWait | .stop => if s.ctrl.en then none else some .notEnabled
  | .write => if s.ctrl.en then (if s.ph = .mt then none else some .sequence) else some .notEnabled
  | .readAck | .readNack => if s.ctrl.en then (if s.ph = .mr then none else some .sequence) else some .notEnabled

/-- The operation begins: SEQ latches it and BUSY rises (41_sequencer.md R131). -/
def State.begin (s : State) (op : Op) (a : Byte) : State :=
  { s with op := op, arg := a, attempts := 0, mpc := firstLabel op, busy := true }

/-- Issue of a decoded command, its checks in the order of 41_sequencer.md R131, R132. -/
def issue (op : Op) (a : Byte) (s : State) : State :=
  if s.busy then s.raise .busy
  else match legalFault op s with
    | some c => s.raise c
    | none => s.begin op a

/-- Issue of a reserved word: F_BUSY comes before F_RESERVED (41_sequencer.md R131, R132). -/
def issueReserved (s : State) : State := if s.busy then s.raise .busy else s.raise .reserved

/-! ### Reset -/

/-- The reset event: the block's state takes the values of 10_state.md R47 (70_reset_and_hazards.md R196). The
parameters, HOST's own state and the inputs to come are not the block's; the strobe ends (log entry 16). -/
def resetEvent (s : State) : State :=
  { State.resetWith s.cfg with
    turns := s.turns, cmdOp := s.cmdOp, cmdArg := s.cmdArg,
    script := s.script, hostPc := s.hostPc, hostVars := s.hostVars, hostWaits := s.hostWaits,
    hostRet := s.hostRet, hostTaken := s.hostTaken, readFailed := s.readFailed, hostHung := s.hostHung }

/-! ### HOST's variables: sorted cells, a variable not listed reading 0x00 -/

/-- Read a variable. -/
def cellRead : List Host.Cell → Nat → Byte
  | [], _ => 0x00
  | (k, v) :: cs, a => if a = k then v else cellRead cs a

/-- Write a variable, keeping the canonical form: writing 0x00 removes the entry. -/
def cellWrite : List Host.Cell → Nat → Byte → List Host.Cell
  | [], a, v => if v = 0x00 then [] else [(a, v)]
  | (k, u) :: cs, a, v =>
    if a < k then (if v = 0x00 then (k, u) :: cs else (a, v) :: (k, u) :: cs)
    else if a = k then (if v = 0x00 then cs else (k, v) :: cs)
    else (k, u) :: cellWrite cs a v

/-- The canonical form: strictly rising numbers from `lo` on, and no entry equal to 0x00. -/
def cellsWfFrom : Nat → List Host.Cell → Bool
  | _, [] => true
  | lo, (k, v) :: cs => decide (lo ≤ k) && v != 0x00 && cellsWfFrom (k + 1) cs

/-- The canonical form of a variable store. -/
def cellsWf (cs : List Host.Cell) : Bool := cellsWfFrom 0 cs

end Sys2Proof.Machine
end

