-- ==== Sys2Proof/Machine/Completion.lean ====
section
/-! DEFINITION. ENGINE's step: the completion of the phase in flight (40_engine.md R101, R112 to R117, R120). -/

namespace Sys2Proof.Machine

/-- BUS may give this answer to this phase (10_state.md R46). A STOP phase draws nothing, so whatever stands in the
turn is not read (log entry 9). -/
def admitted (cfg : Config) (f : Inflight) (o : Answer) : Bool :=
  match f, o with
  | .stop, _ => true
  | .none, _ => false
  | .start, .ok => true
  | .send, .bit _ => true
  | .recvAck, .byte _ => true
  | .recvNack, .byte _ => true
  | .start, .abnormal _ | .send, .abnormal _ | .recvAck, .abnormal _ | .recvNack, .abnormal _ => cfg.admitAbnormal
  | .start, .bit _ | .start, .byte _ | .send, .ok | .send, .byte _ => false
  | .recvAck, .ok | .recvAck, .bit _ | .recvNack, .ok | .recvNack, .bit _ => false

/-- The last writes of a START, SEND or RECV completion: INT is set and the phase is over (40_engine.md R101). -/
def State.phaseDone (s : State) : State := { s with ctrl := { s.ctrl with int := true }, inflight := .none }

/-- The phase is that of a READ (40_engine.md R116, R117). -/
def Inflight.isRecv : Inflight → Bool
  | .recvAck | .recvNack => true
  | .none | .start | .send | .stop => false

/-- `abnormal(c)` (40_engine.md R113). The model records it of a READ (42_host_transaction.md R172; log entry 26). -/
def State.abnormal (s : State) (c : Abnormal) : State :=
  ({ s with code := c.code, ph := .idle, readFailed := s.inflight.isRecv || s.readFailed }).emit (.abnormal c)

/-- START completes with OK: START from P_IDLE, REPEATED-START otherwise (40_engine.md R112). -/
def startOk (s : State) : State :=
  if s.ph = .idle then ({ s with code := .start, ph := .started }).emit .start
  else ({ s with code := .repStart, ph := .started }).emit .repStart

/-- The status of an address byte's answer (40_engine.md R114). -/
def addrCode (read : Bool) (a : Ack) : Code :=
  match read, a with
  | false, .ack => .mtSlaAck
  | false, .nack => .mtSlaNack
  | true, .ack => .mrSlaAck
  | true, .nack => .mrSlaNack

/-- The phase state after an address byte's answer (40_engine.md R114). -/
def addrPhase (read : Bool) (a : Ack) : Phase :=
  match read, a with
  | false, _ => .mt
  | true, .ack => .mr
  | true, .nack => .mrEnd

/-- SEND of an address byte completes with ACK or NACK (40_engine.md R114). -/
def addrSent (a : Ack) (s : State) : State :=
  ({ s with code := addrCode (isRead s.data) a, ph := addrPhase (isRead s.data) a }).emit (.addr s.data a)

/-- The status of a data byte's answer (40_engine.md R115). -/
def dataCode : Ack → Code
  | .ack => .mtDataAck
  | .nack => .mtDataNack

/-- SEND of a data byte completes with ACK or NACK (40_engine.md R115). -/
def dataSent (a : Ack) (s : State) : State := ({ s with code := dataCode a, ph := .mt }).emit (.tx s.data a)

/-- SEND completes with ACK or NACK: an address byte after a START, a data byte otherwise (40_engine.md R114, R115;
log entry 18). -/
def byteSent (a : Ack) (s : State) : State := if s.ph = .started then addrSent a s else dataSent a s

/-- RECV with ACK returned completes with a byte (40_engine.md R116). -/
def receivedAck (v : Byte) (s : State) : State :=
  ({ s with data := v, code := .mrDataAck, ph := .mr, readFailed := false }).emit (.rx v .ack)

/-- RECV with NACK returned completes with a byte (40_engine.md R117). -/
def receivedNack (v : Byte) (s : State) : State :=
  ({ s with data := v, code := .mrDataNack, ph := .mrEnd, readFailed := false }).emit (.rx v .nack)

/-- STOP completes: no event in P_IDLE, STO cleared, INT not set (40_engine.md R120). -/
def stopDone (s : State) : State :=
  let s' := if s.ph = .idle then s else s.emit .stop
  { s' with ph := .idle, code := .noInfo, ctrl := { s.ctrl with sto := false }, inflight := .none }

/-- The completion of the phase in flight with an answer BUS may give (40_engine.md R101). -/
def complete (o : Answer) (s : State) : State :=
  match s.inflight, o with
  | .stop, _ => stopDone s
  | .none, _ => s
  | _, .abnormal c => (s.abnormal c).phaseDone
  | .start, _ => (startOk s).phaseDone
  | .send, .bit a => (byteSent a s).phaseDone
  | .recvAck, .byte v => (receivedAck v s).phaseDone
  | .recvNack, .byte v => (receivedNack v s).phaseDone
  | .send, _ | .recvAck, _ | .recvNack, _ => s

/-- ENGINE's turn: it has a step only while a phase is in flight (40_engine.md R101). Without one, or with an answer
outside the phase's set, nothing happens (log entry 9). -/
def engineStep (o : Answer) (s : State) : State := if admitted s.cfg s.inflight o then complete o s else s

end Sys2Proof.Machine
end

