-- ==== Sys2Proof/Machine/HostAgent.lean ====
section
/-! DEFINITION. HOST: its steps over a script (30_encoding.md R92), the assembler with the pseudo-instructions
(30_encoding.md R93), and the reference client GET_TEMP (42_host_transaction.md R164). -/

namespace Sys2Proof.Machine

/-! ### The assembler -/

/-- The HOST variables of 42_host_transaction.md R164. -/
def varLsb : Nat := 0

/-- The HOST variable msb. -/
def varMsb : Nat := 1

/-- The source's device addressed for writing, SLA_W (42_host_transaction.md R162). -/
def slaW : Byte := addrByte devAddr writeMode

/-- The source's device addressed for reading, SLA_R (42_host_transaction.md R162). -/
def slaR : Byte := addrByte devAddr readMode

/-- GET_TEMP's lines up to its RETURN (42_host_transaction.md R164, R168, R170). -/
def getTempReading (sel absent lsb msb : Nat) : List HostLine :=
  [.cmd .init,
   .cmd (.startWait slaW),
   .ifResult 0x01 absent,
   .cmd (.write (tempCommand sel)),
   .cmd (.startWait slaR),
   .ifResult 0x01 absent,
   .cmd .readAck,
   .save lsb,
   .cmd .readAck,
   .save msb,
   .cmd .readNack,
   .cmd .stop]

/-- GET_TEMP's expansion, with the label it uses for `absent` (42_host_transaction.md R164, R169; log entry 24). -/
def getTempLines (sel absent : Nat) : List HostLine :=
  getTempReading sel absent varLsb varMsb ++
  [.ret (.conv varLsb varMsb),
   .label absent,
   .ret (.num sentinel)]

/-- The expansion of a line into lines without pseudo-instructions (30_encoding.md R93). -/
def expandLine : HostLine → List HostLine
  | .startW a => [.cmd (.start (addrByte a writeMode))]
  | .startR a => [.cmd (.start (addrByte a readMode))]
  | .startWaitW a => [.cmd (.startWait (addrByte a writeMode))]
  | .startWaitR a => [.cmd (.startWait (addrByte a readMode))]
  | .getTemp sel l => getTempLines sel l
  | .cmd i => [.cmd i]
  | .label l => [.label l]
  | .save v => [.save v]
  | .ifResult v l => [.ifResult v l]
  | .ret e => [.ret e]

/-- The statement index a label stands for: the statements before it. -/
def labelIndex (l : Nat) : List HostLine → Nat → Option Nat
  | [], _ => none
  | .label k :: ls, n => if k = l then some n else labelIndex l ls n
  | _ :: ls, n => labelIndex l ls (n + 1)

/-- One expanded line as its statement; a label has none, and an engine command is no HOST statement
(20_memory.md R63). -/
def lineStmt (all : List HostLine) : HostLine → Option (List HostStmt)
  | .cmd i =>
    match encode i with
    | .cmd w => some [.cmd w]
    | .ctrl _ => none
  | .label _ => some []
  | .save v => some [.save v]
  | .ifResult v l => (labelIndex l all 0).map fun t => [.ifResult v t]
  | .ret e => some [.ret e]
  | .startW _ | .startR _ | .startWaitW _ | .startWaitR _ | .getTemp _ _ => none

/-- The statements of expanded lines. -/
def stmtsOf (all : List HostLine) : List HostLine → Option (List HostStmt)
  | [] => some []
  | l :: ls =>
    match lineStmt all l, stmtsOf all ls with
    | some a, some b => some (a ++ b)
    | _, _ => none

/-- The assembler: a script it does not accept is refused (30_encoding.md R93). -/
def assemble (ls : List HostLine) : Option (List HostStmt) :=
  if scriptWellFormed ls then
    let all := ls.flatMap expandLine
    stmtsOf all all
  else none

/-! ### HOST's turn -/

/-- HOST drives the port and raises the strobe for one step (10_state.md R22). -/
def drivePort (w : CmdWord) (s : State) : State :=
  { s with cmdOp := cmdOpField w, cmdArg := cmdArgField w, cmdIssue := true }

/-- The word standing on the port (30_encoding.md R81). -/
def portWord (s : State) : CmdWord := cmdOf s.cmdOp s.cmdArg

/-- A statement without its branch target. -/
def untargeted : HostStmt → HostStmt
  | .ifResult v _ => .ifResult v 0
  | .cmd w => .cmd w
  | .save v => .save v
  | .ret e => .ret e

/-- The statements HOST took last, the latest first, are those of GET_TEMP up to its RETURN, with these two variables,
either selector and any place for `absent` (42_host_transaction.md R164; log entry 26). -/
def ranGetTemp (lsb msb : Nat) (taken : List HostStmt) : Bool :=
  let last := (taken.take 12).reverse.map untargeted
  lsb != msb &&
    (stmtsOf [.label 0] (getTempReading 0 0 lsb msb) == some last ||
      stmtsOf [.label 0] (getTempReading 1 0 lsb msb) == some last)

/-- The value the model records for a RETURN (30_encoding.md R92, 42_host_transaction.md R166). There is one but for the
RETURN of GET_TEMP's own program after a READ of it ended abnormally (42_host_transaction.md R172). -/
def hostValue (s : State) : HostExpr → Option Int
  | .num v => some v
  | .conv l m =>
    if s.readFailed && ranGetTemp l m s.hostTaken then none
    else some (convert (cellRead s.hostVars l) (cellRead s.hostVars m))

/-- One statement of HOST's program (30_encoding.md R92). A branch reads RESULT as it stands. DESIGN CHOICE (log entry
26): where the model records no value for a RETURN, it records a hang of HOST. -/
def hostRun (st : HostStmt) (s : State) : State :=
  match st with
  | .cmd w => drivePort w { s with hostPc := s.hostPc + 1 }
  | .save v => { s with hostPc := s.hostPc + 1, hostVars := cellWrite s.hostVars v s.result }
  | .ifResult v t => { s with hostPc := if s.result = v then t else s.hostPc + 1 }
  | .ret e => { s with hostRet := hostValue s e, hostHung := (hostValue s e).isNone }

/-- HOST may take its next statement: its program has neither returned nor hung, and, where it follows the calling
discipline, BUSY is 0 (70_reset_and_hazards.md R205). -/
def hostReady (s : State) : Bool := s.hostRet.isNone && !s.hostHung && (!s.hostWaits || !s.busy)

/-- HOST's turn. Past the end of its program HOST has no step (log entry 11). The statement taken is recorded (log entry
26). -/
def hostStep (s : State) : State :=
  if hostReady s then
    match s.script[s.hostPc]? with
    | some st => { hostRun st s with hostTaken := st :: s.hostTaken }
    | none => s
  else s

end Sys2Proof.Machine
end

