-- ==== Sys2Proof/Machine/Commands.lean ====
section
/-! DEFINITION. The meanings of the seven commands: the issue step of 41_sequencer.md R131 to R133. The micro-program a
command starts is run by SEQ's steps (Machine/Sequencer.lean; log entry 12). -/

namespace Sys2Proof.Machine

/-- INIT: legal in every state (41_sequencer.md R133, R137). -/
def execInit (s : State) : Host.Outcome State Fault Refusal := whenLive s (issue .init 0x00 s)

/-- START with its address byte (41_sequencer.md R133, R139). -/
def execStart (addr : Byte) (s : State) : Host.Outcome State Fault Refusal := whenLive s (issue .start addr s)

/-- START_WAIT with its address byte (41_sequencer.md R133, R143). -/
def execStartWait (addr : Byte) (s : State) : Host.Outcome State Fault Refusal :=
  whenLive s (issue .startWait addr s)

/-- WRITE with its data byte (41_sequencer.md R133, R145). -/
def execWrite (d : Byte) (s : State) : Host.Outcome State Fault Refusal := whenLive s (issue .write d s)

/-- READ_ACK (41_sequencer.md R133, R146). -/
def execReadAck (s : State) : Host.Outcome State Fault Refusal := whenLive s (issue .readAck 0x00 s)

/-- READ_NACK (41_sequencer.md R133, R147). -/
def execReadNack (s : State) : Host.Outcome State Fault Refusal := whenLive s (issue .readNack 0x00 s)

/-- STOP (41_sequencer.md R133, R148). -/
def execStop (s : State) : Host.Outcome State Fault Refusal := whenLive s (issue .stop 0x00 s)

end Sys2Proof.Machine
end

