-- ==== Sys2Proof/Machine/EngineCommands.lean ====
section
/-! DEFINITION. The meanings of the seven engine-command rows: the CTRL write and the phase it launches
(40_engine.md R103, R104). A row outside the phase states of 30_encoding.md R86 is a launch with no meaning and raises
F_SEQUENCE (log entry 17). The phase's completion is ENGINE's step (Machine/Completion.lean). -/

namespace Sys2Proof.Machine

/-- A SEND phase is launched in P_STARTED and P_MT (30_encoding.md R86). -/
def sendPhase (ph : Phase) : Option Inflight :=
  match ph with
  | .started | .mt => some .send
  | .idle | .mr | .mrEnd => none

/-- A RECV phase is launched in P_MR alone (30_encoding.md R86). -/
def recvPhase (f : Inflight) (ph : Phase) : Option Inflight :=
  match ph with
  | .mr => some f
  | .idle | .started | .mt | .mrEnd => none

/-- E_CONFIG, CTRL ← 0x44 (40_engine.md R110). Bit 7 is 0, so nothing is launched. -/
def execEConfig (s : State) : Host.Outcome State Fault Refusal := whenLive s (ctrlCommand 0x44 none s)

/-- E_START, CTRL ← 0xA4 (40_engine.md R111). -/
def execEStart (s : State) : Host.Outcome State Fault Refusal := whenLive s (ctrlCommand 0xA4 (some .start) s)

/-- E_SEND of an address byte, CTRL ← 0x84 (40_engine.md R114). -/
def execESendAddr (s : State) : Host.Outcome State Fault Refusal := whenLive s (ctrlCommand 0x84 (sendPhase s.ph) s)

/-- E_SEND of a data byte, CTRL ← 0x84 (40_engine.md R115). -/
def execESendData (s : State) : Host.Outcome State Fault Refusal := whenLive s (ctrlCommand 0x84 (sendPhase s.ph) s)

/-- E_RECV_ACK, CTRL ← 0xC4 (40_engine.md R116). -/
def execERecvAck (s : State) : Host.Outcome State Fault Refusal :=
  whenLive s (ctrlCommand 0xC4 (recvPhase .recvAck s.ph) s)

/-- E_RECV_NACK, CTRL ← 0x84 (40_engine.md R117). -/
def execERecvNack (s : State) : Host.Outcome State Fault Refusal :=
  whenLive s (ctrlCommand 0x84 (recvPhase .recvNack s.ph) s)

/-- E_STOP, CTRL ← 0x94 (40_engine.md R119). -/
def execEStop (s : State) : Host.Outcome State Fault Refusal := whenLive s (ctrlCommand 0x94 (some .stop) s)

end Sys2Proof.Machine
end

