-- ==== Sys2Proof/Machine/Dispatch.lean ====
section
/-! DEFINITION. exec: one arm per constructor of Instr. -/

namespace Sys2Proof.Machine

def exec (i : Instr) (s : State) : Host.Outcome State Fault Refusal :=
  match i with
  -- the command port, 30_encoding.md R82
  | .init => Sys2Proof.Machine.execInit s
  | .start a => Sys2Proof.Machine.execStart a s
  | .startWait a => Sys2Proof.Machine.execStartWait a s
  | .write d => Sys2Proof.Machine.execWrite d s
  | .readAck => Sys2Proof.Machine.execReadAck s
  | .readNack => Sys2Proof.Machine.execReadNack s
  | .stop => Sys2Proof.Machine.execStop s
  -- the engine commands, 30_encoding.md R86
  | .eConfig => Sys2Proof.Machine.execEConfig s
  | .eStart => Sys2Proof.Machine.execEStart s
  | .eSendAddr => Sys2Proof.Machine.execESendAddr s
  | .eSendData => Sys2Proof.Machine.execESendData s
  | .eRecvAck => Sys2Proof.Machine.execERecvAck s
  | .eRecvNack => Sys2Proof.Machine.execERecvNack s
  | .eStop => Sys2Proof.Machine.execEStop s

end Sys2Proof.Machine
end

