-- ==== Sys2Proof/Machine/Sequencer.lean ====
section
/-! DEFINITION. SEQ's step: the micro-programs of the seven operations, one register access or poll a step
(41_sequencer.md R134, R137 to R148). -/

namespace Sys2Proof.Machine

/-- SEQ writes a CTRL value: ENGINE decodes it with ph and the engine command runs (30_encoding.md R87). A value with
no meaning takes the register write's own fault (40_engine.md R104, R123). -/
def engineWrite (w : Byte) (s : State) : Host.Outcome State Fault Refusal :=
  match decodeCtrl s.ph w with
  | .ok i => exec i s
  | .error _ => whenLive s (regWrite .ctrl w s)

/-- A CTRL write followed by the step's internal work. -/
def ctrlThen (w : Byte) (k : State → State) (s : State) : Host.Outcome State Fault Refusal :=
  afterAccess (engineWrite w s) k

/-- A write of another register followed by the step's internal work. -/
def writeThen (r : Reg) (v : Byte) (k : State → State) (s : State) : Host.Outcome State Fault Refusal :=
  afterAccess (whenLive s (regWrite r v s)) k

/-- `wait_until(c)`: with c the step is taken, without it SEQ holds (40_engine.md R118). -/
def waitUntil (c : Bool) (k : State → State) (s : State) : Host.Outcome State Fault Refusal :=
  whenLive s (if c then k s else s)

/-- `mpc <- l` as the internal work of a step. -/
def go (l : Label) (s : State) : State := s.goto l

/-- `finish(v)` as the internal work of a step. -/
def fin (v : Byte) (s : State) : State := s.finish v

/-- `twst <- code(RegRead(STATUS))` (41_sequencer.md R139). -/
def State.latchStatus (s : State) : State := { s with twst := codeOf (regRead .status s) }

/-- `retry()` (41_sequencer.md R142). -/
def retry (s : State) : State :=
  let s' := { s with attempts := s.attempts + 1 }
  match s.cfg.waitBound with
  | some n => if n ≤ s'.attempts then s'.finish 0x01 else s'.goto (.startWait .w0)
  | none => s'.goto (.startWait .w0)

/-- INIT (41_sequencer.md R137). -/
def microInit (l : InitLabel) (s : State) : Host.Outcome State Fault Refusal :=
  match l with
  | .i0 => whenLive s (go (.init .i1) (portWrite .sda true s))
  | .i1 => whenLive s (go (.init .i2) (portWrite .scl true s))
  | .i2 => writeThen .status 0x00 (go (.init .i3)) s
  | .i3 => writeThen .bitrate (divisorByte s.cfg) (go (.init (if s.cfg.initStopWait then .i4 else .i6))) s
  | .i4 => ctrlThen 0x94 (go (.init .i5)) s
  | .i5 => waitUntil (!s.ctrl.sto) (go (.init .i6)) s
  | .i6 => ctrlThen 0x44 (fin 0x00) s

/-- S2: the start-phase check (41_sequencer.md R139, R140). -/
def startCheck (s : State) : State := if startFail s.twst then s.finish 0x01 else s.goto (.start .s3)

/-- S6: the address check (41_sequencer.md R139, R141). -/
def addrCheck (s : State) : State := s.finish (returnCode (addrFail s.cfg.ackCheck s.twst))

/-- START (41_sequencer.md R139). -/
def microStart (l : StartLabel) (s : State) : Host.Outcome State Fault Refusal :=
  match l with
  | .s0 => ctrlThen 0xA4 (go (.start .s1)) s
  | .s1 => waitUntil s.ctrl.int (go (.start .s2)) s
  | .s2 => whenLive s (startCheck s.latchStatus)
  | .s3 => writeThen .data s.arg (go (.start .s4)) s
  | .s4 => ctrlThen 0x84 (go (.start .s5)) s
  | .s5 => waitUntil s.ctrl.int (go (.start .s6)) s
  | .s6 => whenLive s (addrCheck s.latchStatus)

/-- W2: a failed start phase retries without a STOP (41_sequencer.md R143). -/
def waitStartCheck (s : State) : State := if startFail s.twst then retry s else s.goto (.startWait .w3)

/-- W6: a status outside the NACK set ends START_WAIT with success (41_sequencer.md R143). -/
def waitAddrCheck (s : State) : State :=
  if nackRetry s.cfg.nackSet s.twst then s.goto (.startWait .w7) else s.finish 0x00

/-- START_WAIT (41_sequencer.md R143). -/
def microStartWait (l : WaitLabel) (s : State) : Host.Outcome State Fault Refusal :=
  match l with
  | .w0 => ctrlThen 0xA4 (go (.startWait .w1)) s
  | .w1 => waitUntil s.ctrl.int (go (.startWait .w2)) s
  | .w2 => whenLive s (waitStartCheck s.latchStatus)
  | .w3 => writeThen .data s.arg (go (.startWait .w4)) s
  | .w4 => ctrlThen 0x84 (go (.startWait .w5)) s
  | .w5 => waitUntil s.ctrl.int (go (.startWait .w6)) s
  | .w6 => whenLive s (waitAddrCheck s.latchStatus)
  | .w7 => ctrlThen 0x94 (go (.startWait .w8)) s
  | .w8 => waitUntil (!s.ctrl.sto) retry s

/-- T3: WRITE's status check (41_sequencer.md R145). -/
def writeCheck (s : State) : State := s.finish (returnCode (writeFail s.twst))

/-- WRITE (41_sequencer.md R145). -/
def microWrite (l : WriteLabel) (s : State) : Host.Outcome State Fault Refusal :=
  match l with
  | .t0 => writeThen .data s.arg (go (.write .t1)) s
  | .t1 => ctrlThen 0x84 (go (.write .t2)) s
  | .t2 => waitUntil s.ctrl.int (go (.write .t3)) s
  | .t3 => whenLive s (writeCheck s.latchStatus)

/-- READ_ACK (41_sequencer.md R146). The status is not read (41_sequencer.md R149). -/
def microReadAck (l : ReadAckLabel) (s : State) : Host.Outcome State Fault Refusal :=
  match l with
  | .a0 => ctrlThen 0xC4 (go (.readAck .a1)) s
  | .a1 => waitUntil s.ctrl.int (go (.readAck .a2)) s
  | .a2 => whenLive s (s.finish (regRead .data s))

/-- READ_NACK (41_sequencer.md R147). -/
def microReadNack (l : ReadNackLabel) (s : State) : Host.Outcome State Fault Refusal :=
  match l with
  | .n0 => ctrlThen 0x84 (go (.readNack .n1)) s
  | .n1 => waitUntil s.ctrl.int (go (.readNack .n2)) s
  | .n2 => whenLive s (s.finish (regRead .data s))

/-- STOP (41_sequencer.md R148). -/
def microStop (l : StopLabel) (s : State) : Host.Outcome State Fault Refusal :=
  match l with
  | .p0 => ctrlThen 0x94 (go (.stop .p1)) s
  | .p1 => waitUntil (!s.ctrl.sto) (fin 0x00) s

/-- The micro-step at `mpc` (41_sequencer.md R134). -/
def microStep (s : State) : Host.Outcome State Fault Refusal :=
  match s.mpc with
  | .init l => microInit l s
  | .start l => microStart l s
  | .startWait l => microStartWait l s
  | .write l => microWrite l s
  | .readAck l => microReadAck l s
  | .readNack l => microReadNack l s
  | .stop l => microStop l s

/-- SEQ's turn: it has a step only while an operation is in progress (41_sequencer.md R134). -/
def seqStep (s : State) : Host.Outcome State Fault Refusal :=
  if s.op = .none then whenLive s s else microStep s

end Sys2Proof.Machine
end

