-- ==== Sys2Proof/Machine/Agents.lean ====
section
/-! DEFINITION. Which agent moves: the issue step, a turn, the whole step, and the placing of a word where the step
takes its next instruction (log entries 8, 10, 15, 16). -/

namespace Sys2Proof.Machine

/-- The issue step: the strobe is up, so the word on the port is decoded and run, and the strobe ends
(10_state.md R22, 41_sequencer.md R131). -/
def issueStep (s : State) : Host.Outcome State Fault Refusal :=
  match decodeCmd (portWord s) with
  | .ok i => exec i { s with cmdIssue := false }
  | .error _ => whenLive s (issueReserved { s with cmdIssue := false })

/-- One agent's turn (10_state.md R21). -/
def takeTurn (t : Turn) (s : State) : Host.Outcome State Fault Refusal :=
  match t with
  | .host => whenLive s (hostStep s)
  | .seq => seqStep s
  | .engine o => whenLive s (engineStep o s)
  | .reset => .next (resetEvent s)

/-- The step of a live machine: the issue step while the strobe is up, else the next turn. With no turn to come
nothing happens. -/
def liveStep (s : State) : Host.Outcome State Fault Refusal :=
  if s.cmdIssue then issueStep s
  else match s.turns with
    | [] => .next s
    | t :: ts => takeTurn t { s with turns := ts }

/-- The step but for the configuration check: the reset event comes in any state (70_reset_and_hazards.md R196), and
otherwise a faulted machine has no step (41_sequencer.md R136). -/
def eventStep (s : State) : Host.Outcome State Fault Refusal :=
  match s.turns with
  | .reset :: ts => .next (resetEvent { s with turns := ts })
  | _ => if s.fault then .fault .quiescent else liveStep s

/-- The whole step. A configuration that 00_scope.md R8 refuses has none. -/
def advance (s : State) : Host.Outcome State Fault Refusal :=
  if configOk s.cfg then eventStep s else .refused .configuration

/-- The operation and label at which SEQ writes a CTRL value (41_sequencer.md R137 to R148; log entry 15). -/
def writerOf (v : Byte) : Op × Label :=
  if v = 0x44 then (.init, .init .i6)
  else if v = 0xA4 then (.start, .start .s0)
  else if v = 0xC4 then (.readAck, .readAck .a0)
  else if v = 0x94 then (.stop, .stop .p0)
  else (.start, .start .s4)

/-- A command word on the port with the strobe up. -/
def placeCommand (w : CmdWord) (s : State) : State := drivePort w s

/-- SEQ at the micro-step that writes the CTRL value, in a phase state in which the value is an instruction, with the
next turn SEQ's. -/
def placeCtrl (v : Byte) (s : State) : State :=
  { s with cmdIssue := false, busy := true, op := (writerOf v).1, mpc := (writerOf v).2, ph := tablePhase v,
           turns := .seq :: s.turns }

/-- A table row's word placed where the step takes its next instruction. -/
def placeWord (nbits w : Nat) (s : State) : State :=
  if nbits = 8 then placeCtrl (BitVec.ofNat 8 w) s else placeCommand (BitVec.ofNat 16 w) s

end Sys2Proof.Machine
end

