-- ==== Sys2Proof/Machine/Step.lean ====
section
/-! DEFINITION. The step of the machine. -/

namespace Sys2Proof.Machine

/-- One step of one agent (10_state.md R21). -/
def step (s : State) : Host.Outcome State Fault Refusal := advance s

/-- `s` with a table row's word where the step takes its next instruction: a command on the command port, a CTRL value
at the micro-step that writes it (log entry 15). -/
def State.withFetchWord (s : State) (nbits w : Nat) : State := placeWord nbits w s

end Sys2Proof.Machine
end

