-- ==== Sys2Proof/Safety.lean ====
section
/-! DEFINITION. The terms claims use: a machine ready for a command, the invariant of a run that has not faulted
(40_engine.md R124 with SEQ's place in its micro-program), when SEQ and ENGINE have a step, and the labels at which
SEQ writes CTRL. -/

namespace Sys2Proof.Machine

/-- The machine waits for a command: the configuration is accepted, no fault is recorded, no operation runs and no
phase is in flight. -/
structure Ready (s : State) : Prop where
  config   : configOk s.cfg = true
  noFault  : s.fault = false
  noStrobe : s.cmdIssue = false
  notBusy  : s.busy = false
  noOp     : s.op = .none
  quiet    : s.inflight = .none

/-- SEQ is at a label of an operation in progress, nothing is in flight and the strobe is down. -/
structure AtStep (s : State) (op : Op) (l : Label) : Prop where
  config   : configOk s.cfg = true
  noFault  : s.fault = false
  noStrobe : s.cmdIssue = false
  running  : s.op = op
  label    : s.mpc = l
  busy     : s.busy = true
  quiet    : s.inflight = .none

/-- `k` steps of the machine, ending early where a step stops. -/
def runSteps : Nat → State → Host.Outcome State Fault Refusal
  | 0, s => .next s
  | k + 1, s =>
    match step s with
    | .next t => runSteps k t
    | .fault f => .fault f
    | .refused f => .refused f

/-- The next input is not the reset event. -/
def noResetNext (s : State) : Bool :=
  match s.turns with
  | .reset :: _ => false
  | _ => true

/-- The operation whose micro-program a label belongs to (41_sequencer.md R137 to R148). -/
def Label.owner : Label → Op
  | .init _ => .init
  | .start _ => .start
  | .startWait _ => .startWait
  | .write _ => .write
  | .readAck _ => .readAck
  | .readNack _ => .readNack
  | .stop _ => .stop

/-- The CTRL value a label writes and the work that follows it in the same step (41_sequencer.md R137 to R148). -/
def ctrlWriteAt : Label → Option (Byte × (State → State))
  | .init .i4 => some (0x94, go (.init .i5))
  | .init .i6 => some (0x44, fin 0x00)
  | .start .s0 => some (0xA4, go (.start .s1))
  | .start .s4 => some (0x84, go (.start .s5))
  | .startWait .w0 => some (0xA4, go (.startWait .w1))
  | .startWait .w4 => some (0x84, go (.startWait .w5))
  | .startWait .w7 => some (0x94, go (.startWait .w8))
  | .write .t1 => some (0x84, go (.write .t2))
  | .readAck .a0 => some (0xC4, go (.readAck .a1))
  | .readNack .n0 => some (0x84, go (.readNack .n1))
  | .stop .p0 => some (0x94, go (.stop .p1))
  | .init _ | .start _ | .startWait _ | .write _ | .readAck _ | .readNack _ | .stop _ => none

/-- The condition SEQ polls at a label, if the label is a `wait_until` (40_engine.md R118). -/
def pollAt (s : State) : Option Bool :=
  match s.mpc with
  | .init .i5 | .startWait .w8 | .stop .p1 => some (!s.ctrl.sto)
  | .start .s1 | .start .s5 | .startWait .w1 | .startWait .w5 | .write .t2 | .readAck .a1 | .readNack .n1 =>
    some s.ctrl.int
  | _ => none

/-- SEQ has an enabled step (41_sequencer.md R134). -/
def seqEnabled (s : State) : Bool := s.op != .none && !s.fault && (pollAt s).getD true

/-- ENGINE has an enabled step (40_engine.md R101). -/
def engineEnabled (s : State) : Bool := s.inflight != .none && !s.fault

/-- 40_engine.md R124, clause by clause, with what keeps it: the flag is down while a phase is in flight, a SEND is in
flight only in P_STARTED or P_MT and a RECV only in P_MR, and IE and PS stay 0. -/
structure EngineInv (s : State) : Prop where
  /-- (a) -/
  heldInt     : s.inflight = .none → s.ph ≠ .idle → s.ctrl.int = true
  /-- (b) -/
  stoStop     : s.ctrl.sto = true ↔ s.inflight = .stop
  /-- (c) -/
  startedCode : s.ph = .started → s.inflight = .none → s.code = .start ∨ s.code = .repStart
  /-- (d) -/
  idleCode    : s.ph = .idle → s.inflight = .none → s.code = .noInfo ∨ s.code = .busError ∨ s.code = .arbLost
  /-- (e) -/
  noCollision : s.ctrl.wc = false
  flightInt   : s.inflight ≠ .none → s.ctrl.int = false
  sendPhase   : s.inflight = .send → s.ph = .started ∨ s.ph = .mt
  recvPhase   : s.inflight = .recvAck ∨ s.inflight = .recvNack → s.ph = .mr
  noInterrupt : s.ctrl.ie = false
  noPrescale  : s.ps = 0

/-- At a label that polls INT: the phase is in flight, or it is over and INT is set. -/
def pollingInt (f : Inflight) (s : State) : Bool :=
  s.inflight == f || (s.inflight == .none && s.ctrl.int)

/-- At a label that polls STO: the STOP is in flight, or it is over. -/
def pollingSto (s : State) : Bool := s.inflight == .stop || s.inflight == .none

/-- What holds of the engine when SEQ stands at a label. -/
def atLabel (s : State) : Bool :=
  match s.mpc with
  | .init .i5 | .startWait .w8 | .stop .p1 => pollingSto s
  | .init _ => s.inflight == .none
  | .start .s1 | .startWait .w1 =>
    pollingInt .start s && (s.inflight != .none || s.ph == .started || s.ph == .idle)
  | .start .s2 | .startWait .w2 => s.inflight == .none && (s.ph == .started || s.ph == .idle)
  | .start .s3 | .start .s4 | .startWait .w3 | .startWait .w4 => s.inflight == .none && s.ph == .started
  | .start .s5 | .startWait .w5 | .write .t2 => pollingInt .send s
  | .write .t0 | .write .t1 => s.inflight == .none && s.ph == .mt
  | .readAck .a0 | .readNack .n0 => s.inflight == .none && s.ph == .mr
  | .readAck .a1 => pollingInt .recvAck s
  | .readNack .n1 => pollingInt .recvNack s
  | .start _ | .startWait _ | .write _ | .readAck _ | .readNack _ | .stop _ => s.inflight == .none

/-- SEQ's place: BUSY shows an operation in progress (10_state.md R23), no phase is in flight while SEQ is idle
(10_state.md R44), the label is the operation's own and the peripheral is enabled for all but INIT. -/
structure SeqInv (s : State) : Prop where
  busyOp  : s.busy = true ↔ s.op ≠ .none
  idle    : s.op = .none → s.inflight = .none
  label   : s.op ≠ .none → s.mpc.owner = s.op
  place   : s.op ≠ .none → atLabel s = true
  enabled : s.op ≠ .none → s.op ≠ .init → s.ctrl.en = true

/-- The invariant of a state that has not faulted (40_engine.md R124: "in every reachable non-faulted state"). -/
def Inv (s : State) : Prop := s.fault = false → EngineInv s ∧ SeqInv s

/-- FAULT and FCODE agree: no fault is FCODE 0x0, a fault is one of the codes 0x1 to 0x4 (60_exceptions.md R177). -/
def faultRecorded (s : State) : Bool :=
  if s.fault then s.fcode == 0x1 || s.fcode == 0x2 || s.fcode == 0x3 || s.fcode == 0x4 else s.fcode == 0x0

end Sys2Proof.Machine
end

