-- ==== Sys2Proof/Certificates/Slice0/Obligations.lean ====
section
/-! DEFINITION. The statements for the provers. -/

open Sys2Proof Sys2Proof.Machine

/-! ### Encoding -/

/-- Decoding an encoded instruction gives it back, with every operand, in every phase state in which the instruction
stands (30_encoding.md R82, R86, R87). -/
def Obligations.DecodeOfEncode : Prop :=
  ∀ (ph : Phase) (i : Instr), i.wellFormedIn ph = true → decode ph (encode i) = .ok i

/-- A word the decoder accepts is the encoding of what it decodes to, so that no two words of one kind are one
instruction in a phase state (30_encoding.md R82, R86, R87). -/
def Obligations.EncodeOfDecode : Prop :=
  ∀ (ph : Phase) (w : CodeWord) (i : Instr), decode ph w = .ok i → encode i = w ∧ i.wellFormedIn ph = true

/-- Words written out from the spec's tables decode to what they stand for (30_encoding.md R82, R86, R87;
95_test_vectors.md EN-1 to EN-7, EN-14). -/
def Obligations.TableWordsDecode : Prop :=
  decodeCmd 0b0000000100000000 = .ok .init ∧
  decodeCmd 0b0000001010110100 = .ok (.start 0xB4) ∧
  decodeCmd 0b0000001110110101 = .ok (.startWait 0xB5) ∧
  decodeCmd 0b0000010000000111 = .ok (.write 0x07) ∧
  decodeCmd 0b0000010100000000 = .ok .readAck ∧
  decodeCmd 0b0000011000000000 = .ok .readNack ∧
  decodeCmd 0b0000011100000000 = .ok .stop ∧
  decodeCmd 0b0000001000000000 = .ok (.start 0x00) ∧
  decodeCmd 0b0000001011111111 = .ok (.start 0xFF) ∧
  decodeCtrl .mt 0b10000100 = .ok .eSendData ∧
  decodeCtrl .mr 0b10000100 = .ok .eRecvNack ∧
  decodeCtrl .idle 0b10000100 = .error .ctrlPhase

/-- A reserved operation code is rejected (30_encoding.md R83), a nonzero ARG of an operation without operand is
rejected (R84), and every ARG of START, START_WAIT and WRITE is accepted (R84). -/
def Obligations.ReservedWordsAreRejected : Prop :=
  (∀ op arg : Byte, (op = 0x00 ∨ 0x08 ≤ op.toNat) → decodeCmd (cmdOf op arg) = .error .reservedOp) ∧
  (∀ op arg : Byte, (op = 0x01 ∨ op = 0x05 ∨ op = 0x06 ∨ op = 0x07) → arg ≠ 0x00 →
    decodeCmd (cmdOf op arg) = .error .reservedArg) ∧
  (∀ arg : Byte, decodeCmd (cmdOf 0x02 arg) = .ok (.start arg) ∧ decodeCmd (cmdOf 0x03 arg) = .ok (.startWait arg) ∧
    decodeCmd (cmdOf 0x04 arg) = .ok (.write arg))

/-! ### Reset -/

/-- The values 10_state.md R47 gives for reset. twst and mpc have none there. -/
def Obligations.ResetValues : Prop :=
  ∀ cfg : Config,
    let r := State.resetWith cfg
    r.busy = false ∧ r.result = 0x00 ∧ r.fault = false ∧ r.fcode = 0x0 ∧ r.op = .none ∧ r.arg = 0x00 ∧
    r.attempts = 0 ∧ regRead .ctrl r = 0x00 ∧ regRead .status r = 0xF8 ∧ r.code = .noInfo ∧ r.ps = 0 ∧
    regRead .bitrate r = 0x00 ∧ regRead .data r = 0xFF ∧ r.puSda = false ∧ r.puScl = false ∧ r.ph = .idle ∧
    r.inflight = .none ∧ r.trace = []

/-- The reset event, from every state, a faulted one too, gives every piece of the block's state its reset value.
That HOST, the parameters, the inputs to come, cmd_op and cmd_arg are left alone and that the strobe goes down is the
model's choice (log entry 16). -/
def Obligations.ResetEventRestoresTheBlock : Prop :=
  ∀ (s : State) (ts : List Turn), configOk s.cfg = true → s.turns = .reset :: ts →
    ∃ t, step s = .next t ∧
      t.busy = false ∧ t.result = 0x00 ∧ t.fault = false ∧ t.fcode = 0x0 ∧ t.op = .none ∧ t.arg = 0x00 ∧
      t.attempts = 0 ∧ regRead .ctrl t = 0x00 ∧ regRead .status t = 0xF8 ∧ t.bitrate = 0x00 ∧ t.data = 0xFF ∧
      t.puSda = false ∧ t.puScl = false ∧ t.ph = .idle ∧ t.inflight = .none ∧ t.trace = [] ∧
      t.cfg = s.cfg ∧ t.turns = ts ∧ t.script = s.script ∧ t.hostPc = s.hostPc ∧ t.hostVars = s.hostVars ∧
      t.hostWaits = s.hostWaits ∧ t.hostRet = s.hostRet ∧ t.hostHung = s.hostHung ∧
      t.hostTaken = s.hostTaken ∧ t.readFailed = s.readFailed ∧
      t.cmdIssue = false ∧ t.cmdOp = s.cmdOp ∧ t.cmdArg = s.cmdArg

/-! ### Issue -/

/-- A step with the strobe up runs the command on the port, with the strobe down again (10_state.md R22). -/
def Obligations.StepRunsTheIssuedCommand : Prop :=
  ∀ (s : State) (i : Instr), configOk s.cfg = true → s.fault = false → noResetNext s = true → s.cmdIssue = true →
    decodeCmd (cmdOf s.cmdOp s.cmdArg) = .ok i → step s = exec i { s with cmdIssue := false }

/-- A SEQ turn at a label that writes CTRL runs the engine command that the value decodes to in this phase state, and
then, unless it faulted, the rest of the micro-step (30_encoding.md R87, 41_sequencer.md R134). -/
def Obligations.StepRunsTheEngineCommand : Prop :=
  ∀ (s : State) (ts : List Turn) (w : Byte) (k : State → State) (i : Instr),
    configOk s.cfg = true → s.fault = false → s.cmdIssue = false → s.op ≠ .none → s.turns = .seq :: ts →
    ctrlWriteAt s.mpc = some (w, k) → decodeCtrl s.ph w = .ok i →
    step s = afterAccess (exec i { s with turns := ts }) k

/-- A table row's word placed by withFetchWord is what the next step runs. How the word is placed is the model's
choice (log entries 14, 15). -/
def Obligations.PlacedWordsRunNext : Prop :=
  (∀ (s : State) (w : Nat) (i : Instr), configOk s.cfg = true → s.fault = false → noResetNext s = true →
    decodeTableWord 16 w = some i →
    step (s.withFetchWord 16 w) =
      exec i { s with cmdOp := cmdOpField (BitVec.ofNat 16 w), cmdArg := cmdArgField (BitVec.ofNat 16 w),
                      cmdIssue := false }) ∧
  (∀ (s : State) (w : Nat) (i : Instr), configOk s.cfg = true → s.fault = false → decodeTableWord 8 w = some i →
    ∃ (op : Op) (l : Label) (k : State → State), ctrlWriteAt l = some (BitVec.ofNat 8 w, k) ∧ l.owner = op ∧
      step (s.withFetchWord 8 w) =
        afterAccess (exec i { s with cmdIssue := false, busy := true, op := op, mpc := l,
                                     ph := tablePhase (BitVec.ofNat 8 w) }) k)

/-- INIT is legal in every state: issued while BUSY is 0 it begins (41_sequencer.md R131, R133). Nothing but SEQ's
program state and BUSY changes. -/
def Obligations.InitIsIssuedInEveryState : Prop :=
  ∀ s : State, s.fault = false → s.busy = false →
    exec .init s =
      .next { s with op := .init, arg := 0x00, attempts := 0, mpc := .init .i0, busy := true }

/-- START, START_WAIT and STOP are legal while CTRL.EN = 1 (41_sequencer.md R131, R133). -/
def Obligations.StartAndStopAreIssuedWhenEnabled : Prop :=
  ∀ (s : State) (a : Byte), s.fault = false → s.busy = false → s.ctrl.en = true →
    exec (.start a) s =
      .next { s with op := .start, arg := a, attempts := 0, mpc := .start .s0, busy := true } ∧
    exec (.startWait a) s =
      .next { s with op := .startWait, arg := a, attempts := 0, mpc := .startWait .w0, busy := true } ∧
    exec .stop s =
      .next { s with op := .stop, arg := 0x00, attempts := 0, mpc := .stop .p0, busy := true }

/-- WRITE is legal in P_MT and the two reads in P_MR, while CTRL.EN = 1 (41_sequencer.md R131, R133). -/
def Obligations.ByteTransfersAreIssuedInTheirPhase : Prop :=
  ∀ (s : State) (d : Byte), s.fault = false → s.busy = false → s.ctrl.en = true →
    (s.ph = .mt → exec (.write d) s =
      .next { s with op := .write, arg := d, attempts := 0, mpc := .write .t0, busy := true }) ∧
    (s.ph = .mr → exec .readAck s =
      .next { s with op := .readAck, arg := 0x00, attempts := 0, mpc := .readAck .a0, busy := true }) ∧
    (s.ph = .mr → exec .readNack s =
      .next { s with op := .readNack, arg := 0x00, attempts := 0, mpc := .readNack .n0, busy := true })

/-- What an issue raises, with the order of the checks: F_BUSY for any command while BUSY = 1, else F_NOT_ENABLED, else
F_SEQUENCE (41_sequencer.md R131 to R133). FAULT and FCODE change and nothing else. -/
def Obligations.IllegalIssueFaults : Prop :=
  ∀ (s : State) (i : Instr), s.fault = false → i.isCommand = true →
    (s.busy = true → exec i s = .next { s with fault := true, fcode := 0x2 }) ∧
    (s.busy = false → s.ctrl.en = false → i ≠ .init → exec i s = .next { s with fault := true, fcode := 0x3 }) ∧
    (s.busy = false → s.ctrl.en = true → (∃ d, i = .write d) → s.ph ≠ .mt →
      exec i s = .next { s with fault := true, fcode := 0x4 }) ∧
    (s.busy = false → s.ctrl.en = true → (i = .readAck ∨ i = .readNack) → s.ph ≠ .mr →
      exec i s = .next { s with fault := true, fcode := 0x4 })

/-- A reserved word on the port: F_BUSY while BUSY = 1, else F_RESERVED (30_encoding.md R83, R84;
41_sequencer.md R132). -/
def Obligations.ReservedIssueFaults : Prop :=
  ∀ (s : State) (r : Reject), configOk s.cfg = true → s.fault = false → noResetNext s = true → s.cmdIssue = true →
    decodeCmd (cmdOf s.cmdOp s.cmdArg) = .error r →
    step s = .next { s with cmdIssue := false, fault := true, fcode := if s.busy then 0x2 else 0x1 }

/-- In a faulted state no agent has a step and no instruction has one (41_sequencer.md R136). -/
def Obligations.FaultedMachineIsQuiescent : Prop :=
  ∀ s : State, s.fault = true →
    (∀ i, exec i s = .fault .quiescent) ∧
    (configOk s.cfg = true → noResetNext s = true → step s = .fault .quiescent)

/-! ### The engine registers -/

/-- RegRead(CTRL) is {INT, EA, STA, STO, WC, EN, 0, IE} (40_engine.md R102). RegRead(STATUS) is {CODE, 0, PS}
(40_engine.md R105): SEQ's mask keeps the code and drops PS, and no two codes read alike. -/
def Obligations.RegisterReadLayouts : Prop :=
  ∀ s t : State,
    (regRead .ctrl s).getLsbD 7 = s.ctrl.int ∧ (regRead .ctrl s).getLsbD 6 = s.ctrl.ea ∧
    (regRead .ctrl s).getLsbD 5 = s.ctrl.sta ∧ (regRead .ctrl s).getLsbD 4 = s.ctrl.sto ∧
    (regRead .ctrl s).getLsbD 3 = s.ctrl.wc ∧ (regRead .ctrl s).getLsbD 2 = s.ctrl.en ∧
    (regRead .ctrl s).getLsbD 1 = false ∧ (regRead .ctrl s).getLsbD 0 = s.ctrl.ie ∧
    regRead .status s = s.code.value ||| s.ps.zeroExtend 8 ∧
    codeOf (regRead .status s) = s.code.value ∧ (regRead .status s).extractLsb' 0 2 = s.ps ∧
    (regRead .status s).getLsbD 2 = false ∧
    (codeOf (regRead .status s) = codeOf (regRead .status t) → s.code = t.code)

/-- Writes of STATUS, BITRATE and DATA with no phase in flight (40_engine.md R106, R107, R109). -/
def Obligations.RegisterWritesAtRest : Prop :=
  ∀ (s : State) (v : Byte), s.inflight = .none →
    regWrite .status v s = { s with ps := v.extractLsb' 0 2 } ∧
    regWrite .bitrate v s = { s with bitrate := v } ∧
    (s.ctrl.int = true → regWrite .data v s = { s with data := v, ctrl := { s.ctrl with wc := false } }) ∧
    (s.ctrl.int = false → regWrite .data v s = { s with ctrl := { s.ctrl with wc := true } })

/-- Any write to an engine register while a phase is in flight raises F_SEQUENCE (40_engine.md R122). -/
def Obligations.WriteInFlightFaults : Prop :=
  ∀ (s : State) (r : Reg) (v : Byte), s.inflight ≠ .none →
    regWrite r v s = { s with fault := true, fcode := 0x4 }

/-- A CTRL write of a value other than the five raises F_SEQUENCE and writes nothing else (40_engine.md R123). -/
def Obligations.UnusedCtrlValueFaults : Prop :=
  ∀ (s : State) (w : Byte), w ∉ [0x44, 0xA4, 0x84, 0xC4, (0x94 : Byte)] →
    regWrite .ctrl w s = { s with fault := true, fcode := 0x4 }

/-- `launch(w)`: the phase each launch value starts in each phase state, and the fault where it starts none
(40_engine.md R104). The CTRL field writes of R103 stand in both cases. -/
def Obligations.LaunchTable : Prop :=
  ∀ s : State, s.inflight = .none →
    let c (ea sta sto : Bool) : Ctrl :=
      { int := false, ea := ea, sta := sta, sto := sto, wc := s.ctrl.wc, en := true, ie := false }
    regWrite .ctrl 0xA4 s = { s with ctrl := c false true false, inflight := .start } ∧
    regWrite .ctrl 0x94 s = { s with ctrl := c false false true, inflight := .stop } ∧
    (s.ph = .started ∨ s.ph = .mt →
      regWrite .ctrl 0x84 s = { s with ctrl := c false false false, inflight := .send }) ∧
    (s.ph = .mr → regWrite .ctrl 0x84 s = { s with ctrl := c false false false, inflight := .recvNack }) ∧
    (s.ph = .idle ∨ s.ph = .mrEnd →
      regWrite .ctrl 0x84 s = { s with ctrl := c false false false, fault := true, fcode := 0x4 }) ∧
    (s.ph = .mr → regWrite .ctrl 0xC4 s = { s with ctrl := c true false false, inflight := .recvAck }) ∧
    (s.ph ≠ .mr → regWrite .ctrl 0xC4 s = { s with ctrl := c true false false, fault := true, fcode := 0x4 })

/-- The engine command a CTRL value decodes to does exactly what the write of that value does
(30_encoding.md R87, 40_engine.md R103, R104). -/
def Obligations.EngineCommandIsItsCtrlWrite : Prop :=
  ∀ (s : State) (w : Byte) (i : Instr), s.fault = false → decodeCtrl s.ph w = .ok i →
    exec i s = .next (regWrite .ctrl w s)

/-- RegRead and RegWrite are the data-space accesses at REG_ADDR's addresses, whatever four distinct addresses those
are, PortWrite is the write of the bit that REG_ADDR names, and no other location is reached (00_scope.md R10;
20_memory.md R61, R64). -/
def Obligations.RegistersAreTheDataSpace : Prop :=
  ∀ (s : State) (v : Byte) (b : Bool), regAddrDistinct s.cfg.regAddr = true →
    s.cfg.regAddr.puSda ≠ s.cfg.regAddr.puScl →
    (∀ r, memRead (regAddrOf s.cfg.regAddr r) s = some (regRead r s) ∧
      memWrite (regAddrOf s.cfg.regAddr r) v s = some (regWrite r v s)) ∧
    (∀ p, memWriteBit (portBitOf s.cfg.regAddr p) b s = some (portWrite p b s)) ∧
    (∀ a, (∀ r, a ≠ regAddrOf s.cfg.regAddr r) → memRead a s = none ∧ memWrite a v s = none) ∧
    (∀ x, (∀ p, x ≠ portBitOf s.cfg.regAddr p) → memWriteBit x b s = none)

/-! ### Engine commands -/

/-- The engine commands that are legal in every phase state. E_CONFIG sets EA and EN, clears STA, STO and IE, leaves
INT and WC and launches nothing (40_engine.md R110); E_START and E_STOP launch their phases (R111, R119). -/
def Obligations.PhaseFreeEngineCommands : Prop :=
  ∀ s : State, s.fault = false → s.inflight = .none →
    exec .eConfig s =
      .next { s with ctrl := { s.ctrl with ea := true, sta := false, sto := false, en := true, ie := false } } ∧
    exec .eStart s = .next { s with
      ctrl := { s.ctrl with int := false, ea := false, sta := true, sto := false, en := true, ie := false },
      inflight := .start } ∧
    exec .eStop s = .next { s with
      ctrl := { s.ctrl with int := false, ea := false, sta := false, sto := true, en := true, ie := false },
      inflight := .stop }

/-- The launches of the two E_SEND rows, of E_RECV_ACK and of E_RECV_NACK in the phase states that 30_encoding.md R86
names (40_engine.md R114 to R117); that each E_SEND row runs in both of its phase states is the model's reading (log
entry 17). -/
def Obligations.ByteTransferLaunches : Prop :=
  ∀ s : State, s.fault = false → s.inflight = .none →
    (s.ph = .started ∨ s.ph = .mt → ∀ i, i = .eSendAddr ∨ i = .eSendData →
      exec i s = .next { s with
        ctrl := { s.ctrl with int := false, ea := false, sta := false, sto := false, en := true, ie := false },
        inflight := .send }) ∧
    (s.ph = .mr → exec .eRecvAck s = .next { s with
        ctrl := { s.ctrl with int := false, ea := true, sta := false, sto := false, en := true, ie := false },
        inflight := .recvAck }) ∧
    (s.ph = .mr → exec .eRecvNack s = .next { s with
        ctrl := { s.ctrl with int := false, ea := false, sta := false, sto := false, en := true, ie := false },
        inflight := .recvNack })

/-- An engine command while a phase is in flight raises F_SEQUENCE (40_engine.md R122), and so does a launch outside
its phase states (40_engine.md R104; for a row in a phase state not its own, log entry 17). -/
def Obligations.EngineCommandFaults : Prop :=
  ∀ (s : State) (i : Instr), s.fault = false → i.isCommand = false →
    (s.inflight ≠ .none → exec i s = .next { s with fault := true, fcode := 0x4 }) ∧
    (((i = .eRecvAck ∨ i = .eRecvNack) ∧ s.ph ≠ .mr) ∨
      ((i = .eSendAddr ∨ i = .eSendData) ∧ s.ph ≠ .started ∧ s.ph ≠ .mt) →
      ∃ t, exec i s = .next t ∧ t.fault = true ∧ t.fcode = 0x4 ∧ t.inflight = s.inflight ∧ t.ph = s.ph)

/-! ### Completions -/

/-- START completion: START from P_IDLE, REP_START otherwise, or an abnormal outcome (40_engine.md R112). -/
def Obligations.StartCompletion : Prop :=
  ∀ (s : State) (ts : List Turn), configOk s.cfg = true → s.fault = false → s.cmdIssue = false →
    s.inflight = .start →
    (s.turns = .engine .ok :: ts → s.ph = .idle →
      step s = .next { s with
        turns := ts, code := .start, ph := .started, trace := s.trace ++ [.start],
        ctrl := { s.ctrl with int := true }, inflight := .none }) ∧
    (s.turns = .engine .ok :: ts → s.ph ≠ .idle →
      step s = .next { s with
        turns := ts, code := .repStart, ph := .started, trace := s.trace ++ [.repStart],
        ctrl := { s.ctrl with int := true }, inflight := .none }) ∧
    (∀ c, s.turns = .engine (.abnormal c) :: ts → s.cfg.admitAbnormal = true →
      step s = .next { s with
        turns := ts, code := c.code, ph := .idle, trace := s.trace ++ [.abnormal c],
        ctrl := { s.ctrl with int := true }, inflight := .none })

/-- `abnormal(c)` at a START, SEND or RECV completion when ADMIT_ABNORMAL is true: STATUS takes the code, the block is
off the bus and DATA keeps its value; when it is false, ABN is empty and there is no such completion
(40_engine.md R113). That the turn is then used up is the model's choice (log entry 9), and so is the record that a READ
has failed (log entry 26). -/
def Obligations.AbnormalCompletion : Prop :=
  ∀ (s : State) (c : Abnormal) (ts : List Turn), configOk s.cfg = true → s.fault = false → s.cmdIssue = false →
    s.inflight ≠ .none → s.inflight ≠ .stop → s.turns = .engine (.abnormal c) :: ts →
    (s.cfg.admitAbnormal = true →
      step s = .next { s with
        turns := ts, code := (match c with | .busError => Code.busError | .arbLost => Code.arbLost), ph := .idle,
        trace := s.trace ++ [.abnormal c], ctrl := { s.ctrl with int := true }, inflight := .none,
        readFailed := if s.inflight = .recvAck ∨ s.inflight = .recvNack then true else s.readFailed }) ∧
    (s.cfg.admitAbnormal = false → step s = .next { s with turns := ts })

/-- SEND completions. An address byte follows a START, and bit 0 of the byte in DATA is its direction
(40_engine.md R114); in P_MT the byte is data (R115). -/
def Obligations.SendCompletion : Prop :=
  ∀ (s : State) (a : Ack) (ts : List Turn), configOk s.cfg = true → s.fault = false → s.cmdIssue = false →
    s.inflight = .send → s.turns = .engine (.bit a) :: ts →
    (s.ph = .started → s.data.getLsbD 0 = false →
      step s = .next { s with
        turns := ts, code := if a = .ack then .mtSlaAck else .mtSlaNack, ph := .mt,
        trace := s.trace ++ [.addr s.data a], ctrl := { s.ctrl with int := true }, inflight := .none }) ∧
    (s.ph = .started → s.data.getLsbD 0 = true →
      step s = .next { s with
        turns := ts, code := if a = .ack then .mrSlaAck else .mrSlaNack, ph := if a = .ack then .mr else .mrEnd,
        trace := s.trace ++ [.addr s.data a], ctrl := { s.ctrl with int := true }, inflight := .none }) ∧
    (s.ph = .mt →
      step s = .next { s with
        turns := ts, code := if a = .ack then .mtDataAck else .mtDataNack, ph := .mt,
        trace := s.trace ++ [.tx s.data a], ctrl := { s.ctrl with int := true }, inflight := .none })

/-- RECV completions with ACK and with NACK returned (40_engine.md R116, R117): every byte may arrive. The
record that no READ has failed is the model's own (log entry 26). -/
def Obligations.ReceiveCompletion : Prop :=
  ∀ (s : State) (v : Byte) (ts : List Turn), configOk s.cfg = true → s.fault = false → s.cmdIssue = false →
    s.turns = .engine (.byte v) :: ts →
    (s.inflight = .recvAck →
      step s = .next { s with
        turns := ts, data := v, code := .mrDataAck, ph := .mr, trace := s.trace ++ [.rx v .ack],
        ctrl := { s.ctrl with int := true }, inflight := .none, readFailed := false }) ∧
    (s.inflight = .recvNack →
      step s = .next { s with
        turns := ts, data := v, code := .mrDataNack, ph := .mrEnd, trace := s.trace ++ [.rx v .nack],
        ctrl := { s.ctrl with int := true }, inflight := .none, readFailed := false })

/-- STOP completion: a Stop event unless the bus was not held, NO_INFO, STO cleared and INT not set
(40_engine.md R120). -/
def Obligations.StopCompletion : Prop :=
  ∀ (s : State) (o : Answer) (ts : List Turn), configOk s.cfg = true → s.fault = false → s.cmdIssue = false →
    s.inflight = .stop → s.turns = .engine o :: ts →
    step s = .next { s with
      turns := ts, trace := if s.ph = .idle then s.trace else s.trace ++ [.stop], ph := .idle, code := .noInfo,
      ctrl := { s.ctrl with sto := false }, inflight := .none }

/-! ### The sequencer

In the statements about whole operations the label SEQ rests at after its last step is left open, as
93_implementation_defined.md U21 leaves it. -/

/-- An agent without an enabled step leaves the machine as it is: ENGINE with no phase in flight (40_engine.md R101),
SEQ with no operation (41_sequencer.md R134) and SEQ at a poll whose condition is false (40_engine.md R118). With the
condition true the poll is taken: SEQ moves on and every engine register, the pull-ups, ph, inflight and the trace keep
their values. That a turn without effect is used up is the model's choice (log entry 8). -/
def Obligations.AgentsWithoutAStepHold : Prop :=
  ∀ (s : State) (ts : List Turn) (o : Answer) (c : Bool), configOk s.cfg = true → s.fault = false →
    s.cmdIssue = false →
    (s.turns = .engine o :: ts → s.inflight = .none → step s = .next { s with turns := ts }) ∧
    (s.turns = .seq :: ts → s.op = .none → step s = .next { s with turns := ts }) ∧
    (s.turns = .seq :: ts → s.op ≠ .none → s.mpc.owner = s.op → pollAt s = some c →
      (c = false → step s = .next { s with turns := ts }) ∧
      (c = true → ∃ t, step s = .next t ∧ (t.mpc ≠ s.mpc ∨ t.op = .none) ∧ t.ctrl = s.ctrl ∧ t.code = s.code ∧
        t.ps = s.ps ∧ t.bitrate = s.bitrate ∧ t.data = s.data ∧ t.puSda = s.puSda ∧ t.puScl = s.puScl ∧
        t.ph = s.ph ∧ t.inflight = s.inflight ∧ t.trace = s.trace))

/-- START's address check under both settings: CORRECTED, the default, fails unless the address was acknowledged in
either direction, ORIGINAL fails always; START returns 0x01 exactly when the check fails (41_sequencer.md R141). -/
def Obligations.AddressCheckForms : Prop :=
  Config.default.ackCheck = .corrected ∧
  (∀ t : Byte,
    (addrFail .corrected t = true ↔ t ≠ Code.mtSlaAck.value ∧ t ≠ Code.mrSlaAck.value) ∧
    (addrFail .original t = true ↔ t ≠ Code.mtSlaAck.value ∨ t ≠ Code.mrSlaAck.value) ∧
    addrFail .original t = true) ∧
  (∀ (s : State) (ts : List Turn), AtStep s .start (.start .s6) → s.turns = .seq :: ts →
    ∃ t, step s = .next t ∧ t.op = .none ∧ t.busy = false ∧
      t.result = if addrFail s.cfg.ackCheck (codeOf (regRead .status s)) then 0x01 else 0x00)

/-- START's start-phase check: it passes exactly for START and REP_START; after a START phase it fails exactly when the
phase ended abnormally, and then the block is off the bus; and the failing check ends START with 0x01 without a STOP
(41_sequencer.md R140). -/
def Obligations.StartPhaseCheck : Prop :=
  (∀ t : Byte, startFail t = false ↔ t = Code.start.value ∨ t = Code.repStart.value) ∧
  (∀ (s t : State) (o : Answer) (ts : List Turn), s.fault = false → s.cmdIssue = false → s.inflight = .start →
    s.turns = .engine o :: ts → step s = .next t → t.inflight = .none →
    (startFail (codeOf (regRead .status t)) = true ↔ ∃ c, o = .abnormal c) ∧
    (startFail (codeOf (regRead .status t)) = true → t.ph = .idle)) ∧
  (∀ (s : State) (ts : List Turn), AtStep s .start (.start .s2) → s.turns = .seq :: ts →
    startFail (codeOf (regRead .status s)) = true →
    ∃ m : Label, step s = .next { s with
      turns := ts, twst := codeOf (regRead .status s), mpc := m, result := 0x01, op := .none, busy := false })

/-- `retry()`: one more failed attempt, then W0 again, or at the bound RESULT 0x01; unbounded is the default, and then
START_WAIT never finishes with 0x01 (41_sequencer.md R142). -/
def Obligations.RetryStep : Prop :=
  Config.default.waitBound = none ∧
  (∀ s : State,
    (s.cfg.waitBound = none → retry s = { s with attempts := s.attempts + 1, mpc := .startWait .w0 }) ∧
    (∀ n, s.cfg.waitBound = some n → n ≤ s.attempts + 1 →
      ∃ m : Label, retry s = { s with
        attempts := s.attempts + 1, mpc := m, result := 0x01, op := .none, busy := false }) ∧
    (∀ n, s.cfg.waitBound = some n → s.attempts + 1 < n →
      retry s = { s with attempts := s.attempts + 1, mpc := .startWait .w0 })) ∧
  (∀ (s t : State) (l : WaitLabel) (ts : List Turn), s.cfg.waitBound = none → s.cmdIssue = false →
    s.turns = .seq :: ts → s.op = .startWait → s.mpc = .startWait l → step s = .next t → t.op = .none →
    t.result = 0x00)

/-- INIT without its optional STOP runs to its end in the issue and five SEQ steps (41_sequencer.md R137, R150): the
pull-ups are on, PS is 0, BITRATE is DIV = ((F_CPU / 100000) - 16) / 2, and CTRL has EA and EN set with INT kept. A
configuration whose DIV is in 0..255 and whose START_WAIT_BOUND, if any, is at least 1 is accepted, and one whose DIV is
outside is refused (00_scope.md R8); a numerator of -1, whose quotient depends on the rounding, is left open (log entry
4). That a refused configuration has no step at all is the model's choice (log entry 4). -/
def Obligations.InitRuns : Prop :=
  (∀ (s : State) (rest : List Turn), Ready s → s.cfg.initStopWait = false →
    ∃ (m : Label) (d : Byte), (d.toNat : Int) = (((s.cfg.fCpu / 100000 : Nat) : Int) - 16) / 2 ∧
    runSteps 6 (drivePort 0x0100 { s with turns := [.seq, .seq, .seq, .seq, .seq] ++ rest }) =
      .next { s with
        turns := rest, cmdOp := 0x01, cmdArg := 0x00, arg := 0x00, attempts := 0, mpc := m,
        puSda := true, puScl := true, ps := 0, bitrate := d,
        ctrl := { s.ctrl with ea := true, sta := false, sto := false, en := true, ie := false },
        result := 0x00 }) ∧
  (∀ cfg : Config, 16 ≤ cfg.fCpu / 100000 → cfg.fCpu / 100000 < 16 + 512 → (∀ n, cfg.waitBound = some n → 1 ≤ n) →
    configOk cfg = true) ∧
  (∀ s : State, s.cfg.fCpu / 100000 + 2 ≤ 16 ∨ 16 + 512 ≤ s.cfg.fCpu / 100000 → step s = .refused .configuration)

/-- INIT with INIT_STOP_WAIT ends any transaction: seven SEQ steps and the STOP's completion, with BITRATE at DIV
(41_sequencer.md R137, R150). -/
def Obligations.InitWithStopRuns : Prop :=
  ∀ (s : State) (o : Answer) (rest : List Turn), Ready s → s.cfg.initStopWait = true →
    ∃ (m : Label) (d : Byte), (d.toNat : Int) = (((s.cfg.fCpu / 100000 : Nat) : Int) - 16) / 2 ∧
    runSteps 9
        (drivePort 0x0100
          { s with turns := [.seq, .seq, .seq, .seq, .seq, .engine o, .seq, .seq] ++ rest }) =
      .next { s with
        turns := rest, cmdOp := 0x01, cmdArg := 0x00, arg := 0x00, attempts := 0, mpc := m,
        puSda := true, puScl := true, ps := 0, bitrate := d,
        ctrl := { s.ctrl with int := false, ea := true, sta := false, sto := false, en := true, ie := false },
        trace := if s.ph = .idle then s.trace else s.trace ++ [.stop], ph := .idle, code := .noInfo,
        result := 0x00 }

/-- INIT is idempotent: run a second time it leaves every engine register, the pull-ups, ph, inflight and the trace as
the first left them (41_sequencer.md R138). -/
def Obligations.InitIsIdempotent : Prop :=
  ∀ (s t u : State) (o o' : Answer), Ready s →
    let sched (x : Answer) : List Turn :=
      if s.cfg.initStopWait then [.seq, .seq, .seq, .seq, .seq, .engine x, .seq, .seq]
      else [.seq, .seq, .seq, .seq, .seq]
    runSteps ((sched o).length + 1) (drivePort 0x0100 { s with turns := sched o }) = .next t →
    runSteps ((sched o').length + 1) (drivePort 0x0100 { t with turns := sched o' }) = .next u →
    u.bitrate = t.bitrate ∧ u.ps = t.ps ∧ u.ctrl = t.ctrl ∧ u.puSda = t.puSda ∧ u.puScl = t.puScl ∧
      u.code = t.code ∧ u.data = t.data ∧ u.ph = t.ph ∧ u.inflight = t.inflight ∧ u.trace = t.trace ∧ u.busy = false ∧
      (s.cfg.initStopWait = true → t.ph = .idle)

/-- START runs: seven SEQ steps with an address byte answered ACK or NACK, RESULT 0x00 or 0x01 by the address check,
the bus held and no STOP (41_sequencer.md R139). -/
def Obligations.StartRuns : Prop :=
  ∀ (s : State) (b : Byte) (a : Ack) (rest : List Turn), Ready s → s.ctrl.en = true →
    ∃ m : Label, runSteps 10
        (drivePort (cmdOf 0x02 b)
          { s with turns := [.seq, .engine .ok, .seq, .seq, .seq, .seq, .engine (.bit a), .seq, .seq] ++ rest }) =
      .next { s with
        turns := rest, cmdOp := 0x02, cmdArg := b, arg := b, attempts := 0, mpc := m,
        twst := (addrCode (b.getLsbD 0) a).value,
        ctrl := { int := true, ea := false, sta := false, sto := false, wc := false, en := true, ie := false },
        data := b, code := addrCode (b.getLsbD 0) a, ph := addrPhase (b.getLsbD 0) a,
        trace := s.trace ++ [if s.ph = .idle then .start else .repStart, .addr b a],
        result := if s.cfg.ackCheck = .corrected ∧ a = .ack then 0x00 else 0x01 }

/-- START's other ends: a start phase that fails gives RESULT 0x01 after three SEQ steps with DATA untouched and no
STOP, and an address phase that ends abnormally gives 0x01 after seven; the block is off the bus after either
(41_sequencer.md R139, R140). -/
def Obligations.StartFailsAfterAbnormal : Prop :=
  ∀ (s : State) (b : Byte) (c : Abnormal) (rest : List Turn), Ready s → s.ctrl.en = true →
    s.cfg.admitAbnormal = true →
    (∃ m : Label, runSteps 5
        (drivePort (cmdOf 0x02 b) { s with turns := [.seq, .engine (.abnormal c), .seq, .seq] ++ rest }) =
      .next { s with
        turns := rest, cmdOp := 0x02, cmdArg := b, arg := b, attempts := 0, mpc := m,
        twst := c.code.value,
        ctrl := { s.ctrl with int := true, ea := false, sta := true, sto := false, en := true, ie := false },
        code := c.code, ph := .idle, trace := s.trace ++ [.abnormal c], result := 0x01 }) ∧
    (∃ m : Label, runSteps 10
        (drivePort (cmdOf 0x02 b)
          { s with turns := [.seq, .engine .ok, .seq, .seq, .seq, .seq, .engine (.abnormal c), .seq, .seq] ++ rest }) =
      .next { s with
        turns := rest, cmdOp := 0x02, cmdArg := b, arg := b, attempts := 0, mpc := m,
        twst := c.code.value,
        ctrl := { int := true, ea := false, sta := false, sto := false, wc := false, en := true, ie := false },
        data := b, code := c.code, ph := .idle,
        trace := s.trace ++ [if s.ph = .idle then .start else .repStart, .abnormal c], result := 0x01 })

/-- START_WAIT's attempt that succeeds: from W0, whatever attempts failed before, seven SEQ steps end it with RESULT
0x00 when the address was acknowledged (41_sequencer.md R143). -/
def Obligations.StartWaitAttemptSucceeds : Prop :=
  ∀ (s : State) (rest : List Turn), AtStep s .startWait (.startWait .w0) →
    ∃ m : Label, runSteps 9
        { s with turns := [.seq, .engine .ok, .seq, .seq, .seq, .seq, .engine (.bit .ack), .seq, .seq] ++ rest } =
      .next { s with
        turns := rest, mpc := m, twst := (addrCode (s.arg.getLsbD 0) .ack).value,
        ctrl := { int := true, ea := false, sta := false, sto := false, wc := false, en := true, ie := false },
        data := s.arg, code := addrCode (s.arg.getLsbD 0) .ack, ph := addrPhase (s.arg.getLsbD 0) .ack,
        trace := s.trace ++ [if s.ph = .idle then .start else .repStart, .addr s.arg .ack],
        result := 0x00, op := .none, busy := false }

/-- START_WAIT's attempt with a NACKed address. A status in the NACK set, which is every address NACK under the default
set and that of SLA+W under the alternative, gives a STOP, nine SEQ steps, one more failed attempt, and W0 again or, at
the bound, RESULT 0x01 (41_sequencer.md R142 to R144). Under the alternative set a NACKed SLA+R ends START_WAIT after
seven SEQ steps with RESULT 0x00, in P_MR_END and without a STOP (41_sequencer.md R143). -/
def Obligations.StartWaitNackedAttemptRetries : Prop :=
  ∀ (s : State) (o : Answer) (rest : List Turn), AtStep s .startWait (.startWait .w0) →
    (s.cfg.nackSet = .addressNacks ∨ s.arg.getLsbD 0 = false →
      ∃ m : Label, runSteps 12
          { s with turns := [.seq, .engine .ok, .seq, .seq, .seq, .seq, .engine (.bit .nack), .seq, .seq,
                             .seq, .engine o, .seq] ++ rest } =
        .next (retry { s with
          turns := rest, mpc := m, twst := (if s.arg.getLsbD 0 then Code.mrSlaNack else Code.mtSlaNack).value,
          ctrl := { int := false, ea := false, sta := false, sto := false, wc := false, en := true, ie := false },
          data := s.arg, code := .noInfo, ph := .idle,
          trace := s.trace ++ [if s.ph = .idle then .start else .repStart, .addr s.arg .nack, .stop] })) ∧
    (s.cfg.nackSet = .upstream → s.arg.getLsbD 0 = true →
      ∃ m : Label, runSteps 9
          { s with turns := [.seq, .engine .ok, .seq, .seq, .seq, .seq, .engine (.bit .nack), .seq, .seq] ++ rest } =
        .next { s with
          turns := rest, mpc := m, twst := Code.mrSlaNack.value,
          ctrl := { int := true, ea := false, sta := false, sto := false, wc := false, en := true, ie := false },
          data := s.arg, code := .mrSlaNack, ph := .mrEnd,
          trace := s.trace ++ [if s.ph = .idle then .start else .repStart, .addr s.arg .nack],
          result := 0x00, op := .none, busy := false })

/-- START_WAIT's attempt whose start phase fails retries without a STOP, and an address phase that ends abnormally
finishes it with RESULT 0x00 and the block off the bus (41_sequencer.md R143). -/
def Obligations.StartWaitAfterAbnormal : Prop :=
  ∀ (s : State) (c : Abnormal) (rest : List Turn), AtStep s .startWait (.startWait .w0) →
    s.cfg.admitAbnormal = true →
    (∃ m : Label, runSteps 4 { s with turns := [.seq, .engine (.abnormal c), .seq, .seq] ++ rest } =
      .next (retry { s with
        turns := rest, mpc := m, twst := c.code.value,
        ctrl := { s.ctrl with int := true, ea := false, sta := true, sto := false, en := true, ie := false },
        code := c.code, ph := .idle, trace := s.trace ++ [.abnormal c] })) ∧
    (∃ m : Label, runSteps 9
        { s with turns := [.seq, .engine .ok, .seq, .seq, .seq, .seq, .engine (.abnormal c), .seq, .seq] ++ rest } =
      .next { s with
        turns := rest, mpc := m, twst := c.code.value,
        ctrl := { int := true, ea := false, sta := false, sto := false, wc := false, en := true, ie := false },
        data := s.arg, code := c.code, ph := .idle,
        trace := s.trace ++ [if s.ph = .idle then .start else .repStart, .abnormal c],
        result := 0x00, op := .none, busy := false })

/-- WRITE runs in four SEQ steps: RESULT is 0x00 exactly when the byte was acknowledged, and no NACK releases the bus
(41_sequencer.md R145). -/
def Obligations.WriteRuns : Prop :=
  ∀ (s : State) (d : Byte) (o : Answer) (rest : List Turn), Ready s → s.ctrl.en = true → s.ctrl.int = true →
    s.ph = .mt → admitted s.cfg .send o = true →
    ∃ t, runSteps 6
        (drivePort (cmdOf 0x04 d) { s with turns := [.seq, .seq, .engine o, .seq, .seq] ++ rest }) = .next t ∧
      t.busy = false ∧ t.op = .none ∧ t.fault = false ∧ t.inflight = .none ∧ t.turns = rest ∧ t.data = d ∧
      t.twst = t.code.value ∧
      t.ctrl = { int := true, ea := false, sta := false, sto := false, wc := false, en := true, ie := false } ∧
      t.bitrate = s.bitrate ∧ t.ps = s.ps ∧ t.puSda = s.puSda ∧ t.puScl = s.puScl ∧
      (∀ a, o = .bit a → t.ph = .mt ∧ t.trace = s.trace ++ [.tx d a] ∧
        t.code = (if a = .ack then .mtDataAck else .mtDataNack) ∧ t.result = if a = .ack then 0x00 else 0x01) ∧
      (∀ c, o = .abnormal c → t.ph = .idle ∧ t.trace = s.trace ++ [.abnormal c] ∧ t.code = c.code ∧
        t.result = 0x01)

/-- READ_ACK and READ_NACK run in three SEQ steps: RESULT is the byte received, or the stale DATA after an abnormal
outcome, since no status is read (41_sequencer.md R146, R147, R149). EA is 1 after READ_ACK and 0 after READ_NACK. The
record that a READ has failed is the model's own (log entry 26). -/
def Obligations.ReadsRun : Prop :=
  ∀ (s : State) (o : Answer) (rest : List Turn), Ready s → s.ctrl.en = true → s.ph = .mr →
    (admitted s.cfg .recvAck o = true →
      ∃ t, runSteps 5
          (drivePort 0x0500 { s with turns := [.seq, .engine o, .seq, .seq] ++ rest }) = .next t ∧
        t.busy = false ∧ t.op = .none ∧ t.fault = false ∧ t.inflight = .none ∧ t.turns = rest ∧ t.twst = s.twst ∧
        t.result = t.data ∧
        t.ctrl = { int := true, ea := true, sta := false, sto := false, wc := s.ctrl.wc, en := true, ie := false } ∧
        t.bitrate = s.bitrate ∧ t.ps = s.ps ∧ t.puSda = s.puSda ∧ t.puScl = s.puScl ∧
        (∀ v, o = .byte v → t.data = v ∧ t.ph = .mr ∧ t.code = .mrDataAck ∧ t.trace = s.trace ++ [.rx v .ack] ∧
          t.readFailed = false) ∧
        (∀ c, o = .abnormal c → t.data = s.data ∧ t.ph = .idle ∧ t.code = c.code ∧
          t.trace = s.trace ++ [.abnormal c] ∧ t.readFailed = true)) ∧
    (admitted s.cfg .recvNack o = true →
      ∃ t, runSteps 5
          (drivePort 0x0600 { s with turns := [.seq, .engine o, .seq, .seq] ++ rest }) = .next t ∧
        t.busy = false ∧ t.op = .none ∧ t.fault = false ∧ t.inflight = .none ∧ t.turns = rest ∧ t.twst = s.twst ∧
        t.result = t.data ∧
        t.ctrl = { int := true, ea := false, sta := false, sto := false, wc := s.ctrl.wc, en := true, ie := false } ∧
        t.bitrate = s.bitrate ∧ t.ps = s.ps ∧ t.puSda = s.puSda ∧ t.puScl = s.puScl ∧
        (∀ v, o = .byte v → t.data = v ∧ t.ph = .mrEnd ∧ t.code = .mrDataNack ∧ t.trace = s.trace ++ [.rx v .nack] ∧
          t.readFailed = false) ∧
        (∀ c, o = .abnormal c → t.data = s.data ∧ t.ph = .idle ∧ t.code = c.code ∧
          t.trace = s.trace ++ [.abnormal c] ∧ t.readFailed = true))

/-- STOP runs in two SEQ steps, in every phase state (41_sequencer.md R148). -/
def Obligations.StopRuns : Prop :=
  ∀ (s : State) (o : Answer) (rest : List Turn), Ready s → s.ctrl.en = true →
    ∃ m : Label, runSteps 4 (drivePort 0x0700 { s with turns := [.seq, .engine o, .seq] ++ rest }) =
      .next { s with
        turns := rest, cmdOp := 0x07, cmdArg := 0x00, arg := 0x00, attempts := 0, mpc := m,
        ctrl := { s.ctrl with int := false, ea := false, sta := false, sto := false, en := true, ie := false },
        trace := if s.ph = .idle then s.trace else s.trace ++ [.stop], ph := .idle, code := .noInfo,
        result := 0x00 }

/-! ### Invariants and whole-machine rules -/

/-- The engine invariants of 40_engine.md R124, with SEQ's place in its micro-program, are kept by every step. -/
def Obligations.EngineInvariantIsKept : Prop :=
  ∀ s t : State, Inv s → step s = .next t → Inv t

/-- The engine invariants hold at reset, under every configuration (40_engine.md R124, 10_state.md R47). -/
def Obligations.EngineInvariantAtReset : Prop :=
  ∀ cfg : Config, Inv (State.resetWith cfg)

/-- From a state that meets the invariant no turn of SEQ, ENGINE or HOST raises a fault: a fault comes of an issue
alone (40_engine.md R122; 70_reset_and_hazards.md R201, R202). That a HOST turn raises none rests on the model's choice
to make HOST's driving of the port and the issue, one HOST step in 41_sequencer.md R131, two steps (log entry 10). -/
def Obligations.OnlyIssueFaults : Prop :=
  ∀ s t : State, Inv s → s.fault = false → s.cmdIssue = false → step s = .next t → t.fault = false

/-- SEQ and ENGINE are never both enabled, and while BUSY is 1 one of them is (60_exceptions.md R182;
41_sequencer.md R135). -/
def Obligations.OneAgentMovesWhileBusy : Prop :=
  ∀ s : State, Inv s → s.fault = false →
    ¬ (seqEnabled s = true ∧ engineEnabled s = true) ∧
    (s.busy = true → seqEnabled s = true ∨ engineEnabled s = true)

/-- FAULT is never cleared by a step of an agent: from a faulted state only the reset event steps, and FAULT and FCODE
always agree (60_exceptions.md R176, R177). -/
def Obligations.OnlyResetClearsFault : Prop :=
  ∀ s t : State, step s = .next t →
    (s.fault = true → ∃ ts, s.turns = .reset :: ts ∧ t.fault = false) ∧
    (faultRecorded s = true → faultRecorded t = true)

/-- ph and the trace change only at a completion, STATUS.CODE too, and a completion comes only of an ENGINE turn with a
phase in flight; the trace only grows (40_engine.md R101; 10_state.md R35). -/
def Obligations.OnlyCompletionsMoveTheBus : Prop :=
  ∀ s t : State, step s = .next t → noResetNext s = true →
    (∃ es, t.trace = s.trace ++ es) ∧
    (t.ph = s.ph ∧ t.code = s.code ∧ t.trace = s.trace ∨
      s.inflight ≠ .none ∧ t.inflight = .none ∧ ∃ o ts, s.turns = .engine o :: ts)

/-- RESULT is written only by the step that finishes an operation, in which BUSY falls (10_state.md R24). -/
def Obligations.ResultIsWrittenByFinishAlone : Prop :=
  ∀ s t : State, step s = .next t → noResetNext s = true → t.result ≠ s.result →
    s.op ≠ .none ∧ t.op = .none ∧ t.busy = false ∧ ∃ ts, s.turns = .seq :: ts

/-- A HOST turn touches no engine register and no engine state (20_memory.md R63). It touches no SEQ state, BUSY or FAULT
either, since HOST's driving of the port and the issue, one HOST step in 41_sequencer.md R131, are two steps here, of
which the HOST turn is the first: that is the model's choice (log entry 10). -/
def Obligations.HostReachesOnlyThePort : Prop :=
  ∀ (s : State) (ts : List Turn), configOk s.cfg = true → s.fault = false → s.cmdIssue = false →
    s.turns = .host :: ts →
    ∃ t, step s = .next t ∧ t.ctrl = s.ctrl ∧ t.code = s.code ∧ t.ps = s.ps ∧ t.bitrate = s.bitrate ∧
      t.data = s.data ∧ t.puSda = s.puSda ∧ t.puScl = s.puScl ∧ t.ph = s.ph ∧ t.inflight = s.inflight ∧
      t.trace = s.trace ∧ t.op = s.op ∧ t.arg = s.arg ∧ t.mpc = s.mpc ∧ t.twst = s.twst ∧
      t.attempts = s.attempts ∧ t.busy = s.busy ∧ t.result = s.result ∧ t.fault = s.fault ∧ t.fcode = s.fcode

/-- No step changes a parameter (10_state.md R49), and HOST's variables keep their canonical form in every step. That
they are held so is the model's choice (log entry 11). -/
def Obligations.ParametersAndVariablesKeepTheirForm : Prop :=
  ∀ s t : State, step s = .next t → t.cfg = s.cfg ∧ (cellsWf s.hostVars = true → cellsWf t.hostVars = true)

/-! ### HOST -/

/-- HOST's directives (30_encoding.md R92): a command is driven on the port, SAVE copies RESULT into a variable and no
other, IF branches on RESULT, and RETURN ends the program with a number or with the conversion of two variables, the
LSB's first (42_host_transaction.md R165, R166). A HOST that follows the calling discipline takes none of them while BUSY
is 1 (70_reset_and_hazards.md R205). One RETURN gives no value: that of GET_TEMP's program, with either selector and any
place for `absent`, whose last READ ended in an abnormal outcome (42_host_transaction.md R172). That this is recorded as a
hang of HOST, and how the program is known, is the model's choice (log entry 26). That a command's turn only drives the
port, the issue of 41_sequencer.md R131 being the next step, is the model's choice (log entry 10), and so is the program as
an indexed list (log entry 11). -/
def Obligations.HostDirectives : Prop :=
  ∀ s : State, cellsWf s.hostVars = true →
    (s.hostWaits = true → s.busy = true → hostStep s = s) ∧
    (hostReady s = true →
      (∀ w, s.script[s.hostPc]? = some (.cmd w) →
        hostStep s = { s with
          hostPc := s.hostPc + 1, cmdOp := cmdOpField w, cmdArg := cmdArgField w, cmdIssue := true,
          hostTaken := .cmd w :: s.hostTaken }) ∧
      (∀ v, s.script[s.hostPc]? = some (.save v) →
        (hostStep s).hostPc = s.hostPc + 1 ∧
        ∀ x, cellRead (hostStep s).hostVars x = if x = v then s.result else cellRead s.hostVars x) ∧
      (∀ v t, s.script[s.hostPc]? = some (.ifResult v t) →
        hostStep s = { s with
          hostPc := if s.result = v then t else s.hostPc + 1, hostTaken := .ifResult v t :: s.hostTaken }) ∧
      (∀ n, s.script[s.hostPc]? = some (.ret (.num n)) →
        hostStep s = { s with hostRet := some n, hostTaken := .ret (.num n) :: s.hostTaken } ∧
        hostReady (hostStep s) = false) ∧
      (∀ l m, s.script[s.hostPc]? = some (.ret (.conv l m)) →
        let failedGetTemp : Prop := s.readFailed = true ∧ l ≠ m ∧ ∃ c t t' rest, (c = 0x0406 ∨ c = 0x0407) ∧
          s.hostTaken = [HostStmt.cmd 0x0700, .cmd 0x0600, .save m, .cmd 0x0500, .save l, .cmd 0x0500,
            .ifResult 0x01 t', .cmd 0x03B5, .cmd c, .ifResult 0x01 t, .cmd 0x03B4, .cmd 0x0100] ++ rest
        hostReady (hostStep s) = false ∧
        (failedGetTemp → s.hostRet = none ∧
          hostStep s = { s with hostHung := true, hostTaken := .ret (.conv l m) :: s.hostTaken }) ∧
        (¬ failedGetTemp →
          hostStep s = { s with
            hostRet := some (convert (cellRead s.hostVars l) (cellRead s.hostVars m)),
            hostTaken := .ret (.conv l m) :: s.hostTaken })))

/-- GET_TEMP assembles to the command words of 42_host_transaction.md R164 with either selector, and the four
pseudo-instructions to the words of 30_encoding.md R93, a 7-bit address above 0x7F being refused. -/
def Obligations.PseudoInstructionsAssemble : Prop :=
  (∀ sel l : Nat, assemble [.getTemp sel l] = some
    [.cmd 0x0100, .cmd 0x03B4, .ifResult 0x01 13, .cmd (if sel = 0 then 0x0407 else 0x0406), .cmd 0x03B5,
     .ifResult 0x01 13, .cmd 0x0500, .save 0, .cmd 0x0500, .save 1, .cmd 0x0600, .cmd 0x0700,
     .ret (.conv 0 1), .ret (.num (-27313))]) ∧
  (∀ a7 : BitVec 7,
    assemble [.startW a7.toNat] = some [.cmd ((0x02 : BitVec 8) ++ a7 ++ (0 : BitVec 1))] ∧
    assemble [.startR a7.toNat] = some [.cmd ((0x02 : BitVec 8) ++ a7 ++ (1 : BitVec 1))] ∧
    assemble [.startWaitW a7.toNat] = some [.cmd ((0x03 : BitVec 8) ++ a7 ++ (0 : BitVec 1))] ∧
    assemble [.startWaitR a7.toNat] = some [.cmd ((0x03 : BitVec 8) ++ a7 ++ (1 : BitVec 1))]) ∧
  (∀ a : Nat, 0x7F < a → assemble [.startW a] = none ∧ assemble [.startR a] = none ∧
    assemble [.startWaitW a] = none ∧ assemble [.startWaitR a] = none)

/-- The conversion is u = (2 * raw + 38221) mod 65536 read as two's complement, with raw unsigned
(42_host_transaction.md R166, R167). -/
def Obligations.ConversionFormula : Prop :=
  ∀ lsb msb : Byte,
    let raw : Nat := msb.toNat * 256 + lsb.toNat
    let u : Nat := (2 * raw + 38221) % 65536
    convert lsb msb = if 32768 ≤ u then (u : Int) - 65536 else (u : Int)

/-- Swapping the two bytes changes the result by 510 * (msb - lsb) modulo 2^16, which is nonzero for different bytes
(42_host_transaction.md R174). -/
def Obligations.ConversionByteOrder : Prop :=
  ∀ lsb msb : Byte,
    (convert lsb msb - convert msb lsb) % 65536 = (510 * ((msb.toNat : Int) - (lsb.toNat : Int))) % 65536 ∧
    (lsb ≠ msb → convert lsb msb ≠ convert msb lsb)

/-- The sentinel's value is also a converted value, so that it does not show an absent device
(42_host_transaction.md R171): exactly raw 0x0001 and, by the wrap, raw 0x8001 give it. -/
def Obligations.SentinelIsAlsoAReading : Prop :=
  ∀ lsb msb : Byte, convert lsb msb = sentinel ↔ lsb = 0x01 ∧ (msb = 0x00 ∨ msb = 0x80)

/-- The conversion rises with raw over 0x0000 to 0x7559, from -27315 to 32767, and wraps to a negative value at 0x755A;
reading raw as unsigned gives the same result (42_host_transaction.md R167). -/
def Obligations.ConversionMonotoneRange : Prop :=
  (∀ l m l' m' : Byte, m.toNat * 256 + l.toNat < m'.toNat * 256 + l'.toNat → m'.toNat * 256 + l'.toNat ≤ 0x7559 →
    convert l m < convert l' m') ∧
  convert 0x00 0x00 = -27315 ∧ convert 0x59 0x75 = 32767 ∧ convert 0x5A 0x75 = -32767 ∧
  (∀ l m : Byte, convert l m = sext16 (wrap16 (((rawOf l m).toNat : Int) * scaleFactor - tempOffset)))
end

