-- ==== Sys2Proof/Laws/Decode.lean ====
section
/-! SUPPORT. The fields of a command word, and the opcode table's match and mask for every instruction. -/

namespace Sys2Proof

/-- The OP field of {op, arg} is op. -/
@[simp] theorem cmdOpField_cmdOf (op arg : Byte) : cmdOpField (cmdOf op arg) = op := by
  simp only [cmdOpField, cmdOf, ← BitVec.toNat_inj, BitVec.extractLsb'_toNat, BitVec.toNat_append,
    Nat.shiftRight_eq_div_pow, Nat.shiftLeft_eq]
  have ha := arg.isLt
  have ho := op.isLt
  rw [← Nat.shiftLeft_eq, ← Nat.shiftLeft_add_eq_or_of_lt ha, Nat.shiftLeft_eq]
  omega

/-- The ARG field of {op, arg} is arg. -/
@[simp] theorem cmdArgField_cmdOf (op arg : Byte) : cmdArgField (cmdOf op arg) = arg := by
  simp only [cmdArgField, cmdOf, ← BitVec.toNat_inj, BitVec.extractLsb'_toNat, BitVec.toNat_append,
    Nat.shiftRight_eq_div_pow, Nat.shiftLeft_eq]
  have ha := arg.isLt
  have ho := op.isLt
  rw [← Nat.shiftLeft_eq, ← Nat.shiftLeft_add_eq_or_of_lt ha, Nat.shiftLeft_eq]
  omega

/-- A word is made of its two fields. -/
theorem cmdOf_fields (w : CmdWord) : cmdOf (cmdOpField w) (cmdArgField w) = w := by
  simp only [cmdOpField, cmdArgField, cmdOf, ← BitVec.toNat_inj, BitVec.extractLsb'_toNat, BitVec.toNat_append]
  have hw := w.isLt
  have hl : w.toNat >>> 0 % 2 ^ 8 < 2 ^ 8 := Nat.mod_lt _ (by decide)
  rw [← Nat.shiftLeft_add_eq_or_of_lt hl, Nat.shiftLeft_eq, Nat.shiftRight_eq_div_pow, Nat.shiftRight_eq_div_pow]
  omega

end Sys2Proof
end

