-- ==== Sys2Proof/Laws/State.lean ====
section
/-! SUPPORT. The fields of every named update of State: one lemma per field and update, so that no later proof unfolds
a record update. -/

namespace Sys2Proof.Machine

variable (s : State)

/-! ### raise -/

@[simp] theorem raise_cfg (c : FaultCode) : (s.raise c).cfg = s.cfg := rfl
@[simp] theorem raise_turns (c : FaultCode) : (s.raise c).turns = s.turns := rfl
@[simp] theorem raise_cmdOp (c : FaultCode) : (s.raise c).cmdOp = s.cmdOp := rfl
@[simp] theorem raise_cmdArg (c : FaultCode) : (s.raise c).cmdArg = s.cmdArg := rfl
@[simp] theorem raise_cmdIssue (c : FaultCode) : (s.raise c).cmdIssue = s.cmdIssue := rfl
@[simp] theorem raise_busy (c : FaultCode) : (s.raise c).busy = s.busy := rfl
@[simp] theorem raise_result (c : FaultCode) : (s.raise c).result = s.result := rfl
@[simp] theorem raise_fault (c : FaultCode) : (s.raise c).fault = true := rfl
@[simp] theorem raise_fcode (c : FaultCode) : (s.raise c).fcode = c.value := rfl
@[simp] theorem raise_op (c : FaultCode) : (s.raise c).op = s.op := rfl
@[simp] theorem raise_arg (c : FaultCode) : (s.raise c).arg = s.arg := rfl
@[simp] theorem raise_mpc (c : FaultCode) : (s.raise c).mpc = s.mpc := rfl
@[simp] theorem raise_twst (c : FaultCode) : (s.raise c).twst = s.twst := rfl
@[simp] theorem raise_attempts (c : FaultCode) : (s.raise c).attempts = s.attempts := rfl
@[simp] theorem raise_ctrl (c : FaultCode) : (s.raise c).ctrl = s.ctrl := rfl
@[simp] theorem raise_code (c : FaultCode) : (s.raise c).code = s.code := rfl
@[simp] theorem raise_ps (c : FaultCode) : (s.raise c).ps = s.ps := rfl
@[simp] theorem raise_bitrate (c : FaultCode) : (s.raise c).bitrate = s.bitrate := rfl
@[simp] theorem raise_data (c : FaultCode) : (s.raise c).data = s.data := rfl
@[simp] theorem raise_puSda (c : FaultCode) : (s.raise c).puSda = s.puSda := rfl
@[simp] theorem raise_puScl (c : FaultCode) : (s.raise c).puScl = s.puScl := rfl
@[simp] theorem raise_ph (c : FaultCode) : (s.raise c).ph = s.ph := rfl
@[simp] theorem raise_inflight (c : FaultCode) : (s.raise c).inflight = s.inflight := rfl
@[simp] theorem raise_trace (c : FaultCode) : (s.raise c).trace = s.trace := rfl
@[simp] theorem raise_script (c : FaultCode) : (s.raise c).script = s.script := rfl
@[simp] theorem raise_hostPc (c : FaultCode) : (s.raise c).hostPc = s.hostPc := rfl
@[simp] theorem raise_hostVars (c : FaultCode) : (s.raise c).hostVars = s.hostVars := rfl
@[simp] theorem raise_hostWaits (c : FaultCode) : (s.raise c).hostWaits = s.hostWaits := rfl
@[simp] theorem raise_hostRet (c : FaultCode) : (s.raise c).hostRet = s.hostRet := rfl
@[simp] theorem raise_hostTaken (c : FaultCode) : (s.raise c).hostTaken = s.hostTaken := rfl
@[simp] theorem raise_readFailed (c : FaultCode) : (s.raise c).readFailed = s.readFailed := rfl
@[simp] theorem raise_hostHung (c : FaultCode) : (s.raise c).hostHung = s.hostHung := rfl

/-! ### finish -/

@[simp] theorem finish_cfg (v : Byte) : (s.finish v).cfg = s.cfg := rfl
@[simp] theorem finish_turns (v : Byte) : (s.finish v).turns = s.turns := rfl
@[simp] theorem finish_cmdOp (v : Byte) : (s.finish v).cmdOp = s.cmdOp := rfl
@[simp] theorem finish_cmdArg (v : Byte) : (s.finish v).cmdArg = s.cmdArg := rfl
@[simp] theorem finish_cmdIssue (v : Byte) : (s.finish v).cmdIssue = s.cmdIssue := rfl
@[simp] theorem finish_busy (v : Byte) : (s.finish v).busy = false := rfl
@[simp] theorem finish_result (v : Byte) : (s.finish v).result = v := rfl
@[simp] theorem finish_fault (v : Byte) : (s.finish v).fault = s.fault := rfl
@[simp] theorem finish_fcode (v : Byte) : (s.finish v).fcode = s.fcode := rfl
@[simp] theorem finish_op (v : Byte) : (s.finish v).op = .none := rfl
@[simp] theorem finish_arg (v : Byte) : (s.finish v).arg = s.arg := rfl
@[simp] theorem finish_mpc (v : Byte) : (s.finish v).mpc = s.mpc := rfl
@[simp] theorem finish_twst (v : Byte) : (s.finish v).twst = s.twst := rfl
@[simp] theorem finish_attempts (v : Byte) : (s.finish v).attempts = s.attempts := rfl
@[simp] theorem finish_ctrl (v : Byte) : (s.finish v).ctrl = s.ctrl := rfl
@[simp] theorem finish_code (v : Byte) : (s.finish v).code = s.code := rfl
@[simp] theorem finish_ps (v : Byte) : (s.finish v).ps = s.ps := rfl
@[simp] theorem finish_bitrate (v : Byte) : (s.finish v).bitrate = s.bitrate := rfl
@[simp] theorem finish_data (v : Byte) : (s.finish v).data = s.data := rfl
@[simp] theorem finish_puSda (v : Byte) : (s.finish v).puSda = s.puSda := rfl
@[simp] theorem finish_puScl (v : Byte) : (s.finish v).puScl = s.puScl := rfl
@[simp] theorem finish_ph (v : Byte) : (s.finish v).ph = s.ph := rfl
@[simp] theorem finish_inflight (v : Byte) : (s.finish v).inflight = s.inflight := rfl
@[simp] theorem finish_trace (v : Byte) : (s.finish v).trace = s.trace := rfl
@[simp] theorem finish_script (v : Byte) : (s.finish v).script = s.script := rfl
@[simp] theorem finish_hostPc (v : Byte) : (s.finish v).hostPc = s.hostPc := rfl
@[simp] theorem finish_hostVars (v : Byte) : (s.finish v).hostVars = s.hostVars := rfl
@[simp] theorem finish_hostWaits (v : Byte) : (s.finish v).hostWaits = s.hostWaits := rfl
@[simp] theorem finish_hostRet (v : Byte) : (s.finish v).hostRet = s.hostRet := rfl
@[simp] theorem finish_hostTaken (v : Byte) : (s.finish v).hostTaken = s.hostTaken := rfl
@[simp] theorem finish_readFailed (v : Byte) : (s.finish v).readFailed = s.readFailed := rfl
@[simp] theorem finish_hostHung (v : Byte) : (s.finish v).hostHung = s.hostHung := rfl

/-! ### goto -/

@[simp] theorem goto_cfg (l : Label) : (s.goto l).cfg = s.cfg := rfl
@[simp] theorem goto_turns (l : Label) : (s.goto l).turns = s.turns := rfl
@[simp] theorem goto_cmdOp (l : Label) : (s.goto l).cmdOp = s.cmdOp := rfl
@[simp] theorem goto_cmdArg (l : Label) : (s.goto l).cmdArg = s.cmdArg := rfl
@[simp] theorem goto_cmdIssue (l : Label) : (s.goto l).cmdIssue = s.cmdIssue := rfl
@[simp] theorem goto_busy (l : Label) : (s.goto l).busy = s.busy := rfl
@[simp] theorem goto_result (l : Label) : (s.goto l).result = s.result := rfl
@[simp] theorem goto_fault (l : Label) : (s.goto l).fault = s.fault := rfl
@[simp] theorem goto_fcode (l : Label) : (s.goto l).fcode = s.fcode := rfl
@[simp] theorem goto_op (l : Label) : (s.goto l).op = s.op := rfl
@[simp] theorem goto_arg (l : Label) : (s.goto l).arg = s.arg := rfl
@[simp] theorem goto_mpc (l : Label) : (s.goto l).mpc = l := rfl
@[simp] theorem goto_twst (l : Label) : (s.goto l).twst = s.twst := rfl
@[simp] theorem goto_attempts (l : Label) : (s.goto l).attempts = s.attempts := rfl
@[simp] theorem goto_ctrl (l : Label) : (s.goto l).ctrl = s.ctrl := rfl
@[simp] theorem goto_code (l : Label) : (s.goto l).code = s.code := rfl
@[simp] theorem goto_ps (l : Label) : (s.goto l).ps = s.ps := rfl
@[simp] theorem goto_bitrate (l : Label) : (s.goto l).bitrate = s.bitrate := rfl
@[simp] theorem goto_data (l : Label) : (s.goto l).data = s.data := rfl
@[simp] theorem goto_puSda (l : Label) : (s.goto l).puSda = s.puSda := rfl
@[simp] theorem goto_puScl (l : Label) : (s.goto l).puScl = s.puScl := rfl
@[simp] theorem goto_ph (l : Label) : (s.goto l).ph = s.ph := rfl
@[simp] theorem goto_inflight (l : Label) : (s.goto l).inflight = s.inflight := rfl
@[simp] theorem goto_trace (l : Label) : (s.goto l).trace = s.trace := rfl
@[simp] theorem goto_script (l : Label) : (s.goto l).script = s.script := rfl
@[simp] theorem goto_hostPc (l : Label) : (s.goto l).hostPc = s.hostPc := rfl
@[simp] theorem goto_hostVars (l : Label) : (s.goto l).hostVars = s.hostVars := rfl
@[simp] theorem goto_hostWaits (l : Label) : (s.goto l).hostWaits = s.hostWaits := rfl
@[simp] theorem goto_hostRet (l : Label) : (s.goto l).hostRet = s.hostRet := rfl
@[simp] theorem goto_hostTaken (l : Label) : (s.goto l).hostTaken = s.hostTaken := rfl
@[simp] theorem goto_readFailed (l : Label) : (s.goto l).readFailed = s.readFailed := rfl
@[simp] theorem goto_hostHung (l : Label) : (s.goto l).hostHung = s.hostHung := rfl

/-! ### emit -/

@[simp] theorem emit_cfg (e : Event) : (s.emit e).cfg = s.cfg := rfl
@[simp] theorem emit_turns (e : Event) : (s.emit e).turns = s.turns := rfl
@[simp] theorem emit_cmdOp (e : Event) : (s.emit e).cmdOp = s.cmdOp := rfl
@[simp] theorem emit_cmdArg (e : Event) : (s.emit e).cmdArg = s.cmdArg := rfl
@[simp] theorem emit_cmdIssue (e : Event) : (s.emit e).cmdIssue = s.cmdIssue := rfl
@[simp] theorem emit_busy (e : Event) : (s.emit e).busy = s.busy := rfl
@[simp] theorem emit_result (e : Event) : (s.emit e).result = s.result := rfl
@[simp] theorem emit_fault (e : Event) : (s.emit e).fault = s.fault := rfl
@[simp] theorem emit_fcode (e : Event) : (s.emit e).fcode = s.fcode := rfl
@[simp] theorem emit_op (e : Event) : (s.emit e).op = s.op := rfl
@[simp] theorem emit_arg (e : Event) : (s.emit e).arg = s.arg := rfl
@[simp] theorem emit_mpc (e : Event) : (s.emit e).mpc = s.mpc := rfl
@[simp] theorem emit_twst (e : Event) : (s.emit e).twst = s.twst := rfl
@[simp] theorem emit_attempts (e : Event) : (s.emit e).attempts = s.attempts := rfl
@[simp] theorem emit_ctrl (e : Event) : (s.emit e).ctrl = s.ctrl := rfl
@[simp] theorem emit_code (e : Event) : (s.emit e).code = s.code := rfl
@[simp] theorem emit_ps (e : Event) : (s.emit e).ps = s.ps := rfl
@[simp] theorem emit_bitrate (e : Event) : (s.emit e).bitrate = s.bitrate := rfl
@[simp] theorem emit_data (e : Event) : (s.emit e).data = s.data := rfl
@[simp] theorem emit_puSda (e : Event) : (s.emit e).puSda = s.puSda := rfl
@[simp] theorem emit_puScl (e : Event) : (s.emit e).puScl = s.puScl := rfl
@[simp] theorem emit_ph (e : Event) : (s.emit e).ph = s.ph := rfl
@[simp] theorem emit_inflight (e : Event) : (s.emit e).inflight = s.inflight := rfl
@[simp] theorem emit_trace (e : Event) : (s.emit e).trace = s.trace ++ [e] := rfl
@[simp] theorem emit_script (e : Event) : (s.emit e).script = s.script := rfl
@[simp] theorem emit_hostPc (e : Event) : (s.emit e).hostPc = s.hostPc := rfl
@[simp] theorem emit_hostVars (e : Event) : (s.emit e).hostVars = s.hostVars := rfl
@[simp] theorem emit_hostWaits (e : Event) : (s.emit e).hostWaits = s.hostWaits := rfl
@[simp] theorem emit_hostRet (e : Event) : (s.emit e).hostRet = s.hostRet := rfl
@[simp] theorem emit_hostTaken (e : Event) : (s.emit e).hostTaken = s.hostTaken := rfl
@[simp] theorem emit_readFailed (e : Event) : (s.emit e).readFailed = s.readFailed := rfl
@[simp] theorem emit_hostHung (e : Event) : (s.emit e).hostHung = s.hostHung := rfl

/-! ### begin -/

@[simp] theorem begin_cfg (o : Op) (a : Byte) : (s.begin o a).cfg = s.cfg := rfl
@[simp] theorem begin_turns (o : Op) (a : Byte) : (s.begin o a).turns = s.turns := rfl
@[simp] theorem begin_cmdOp (o : Op) (a : Byte) : (s.begin o a).cmdOp = s.cmdOp := rfl
@[simp] theorem begin_cmdArg (o : Op) (a : Byte) : (s.begin o a).cmdArg = s.cmdArg := rfl
@[simp] theorem begin_cmdIssue (o : Op) (a : Byte) : (s.begin o a).cmdIssue = s.cmdIssue := rfl
@[simp] theorem begin_busy (o : Op) (a : Byte) : (s.begin o a).busy = true := rfl
@[simp] theorem begin_result (o : Op) (a : Byte) : (s.begin o a).result = s.result := rfl
@[simp] theorem begin_fault (o : Op) (a : Byte) : (s.begin o a).fault = s.fault := rfl
@[simp] theorem begin_fcode (o : Op) (a : Byte) : (s.begin o a).fcode = s.fcode := rfl
@[simp] theorem begin_op (o : Op) (a : Byte) : (s.begin o a).op = o := rfl
@[simp] theorem begin_arg (o : Op) (a : Byte) : (s.begin o a).arg = a := rfl
@[simp] theorem begin_mpc (o : Op) (a : Byte) : (s.begin o a).mpc = firstLabel o := rfl
@[simp] theorem begin_twst (o : Op) (a : Byte) : (s.begin o a).twst = s.twst := rfl
@[simp] theorem begin_attempts (o : Op) (a : Byte) : (s.begin o a).attempts = 0 := rfl
@[simp] theorem begin_ctrl (o : Op) (a : Byte) : (s.begin o a).ctrl = s.ctrl := rfl
@[simp] theorem begin_code (o : Op) (a : Byte) : (s.begin o a).code = s.code := rfl
@[simp] theorem begin_ps (o : Op) (a : Byte) : (s.begin o a).ps = s.ps := rfl
@[simp] theorem begin_bitrate (o : Op) (a : Byte) : (s.begin o a).bitrate = s.bitrate := rfl
@[simp] theorem begin_data (o : Op) (a : Byte) : (s.begin o a).data = s.data := rfl
@[simp] theorem begin_puSda (o : Op) (a : Byte) : (s.begin o a).puSda = s.puSda := rfl
@[simp] theorem begin_puScl (o : Op) (a : Byte) : (s.begin o a).puScl = s.puScl := rfl
@[simp] theorem begin_ph (o : Op) (a : Byte) : (s.begin o a).ph = s.ph := rfl
@[simp] theorem begin_inflight (o : Op) (a : Byte) : (s.begin o a).inflight = s.inflight := rfl
@[simp] theorem begin_trace (o : Op) (a : Byte) : (s.begin o a).trace = s.trace := rfl
@[simp] theorem begin_script (o : Op) (a : Byte) : (s.begin o a).script = s.script := rfl
@[simp] theorem begin_hostPc (o : Op) (a : Byte) : (s.begin o a).hostPc = s.hostPc := rfl
@[simp] theorem begin_hostVars (o : Op) (a : Byte) : (s.begin o a).hostVars = s.hostVars := rfl
@[simp] theorem begin_hostWaits (o : Op) (a : Byte) : (s.begin o a).hostWaits = s.hostWaits := rfl
@[simp] theorem begin_hostRet (o : Op) (a : Byte) : (s.begin o a).hostRet = s.hostRet := rfl
@[simp] theorem begin_hostTaken (o : Op) (a : Byte) : (s.begin o a).hostTaken = s.hostTaken := rfl
@[simp] theorem begin_readFailed (o : Op) (a : Byte) : (s.begin o a).readFailed = s.readFailed := rfl
@[simp] theorem begin_hostHung (o : Op) (a : Byte) : (s.begin o a).hostHung = s.hostHung := rfl

/-! ### latchStatus -/

@[simp] theorem latchStatus_cfg : (s.latchStatus).cfg = s.cfg := rfl
@[simp] theorem latchStatus_turns : (s.latchStatus).turns = s.turns := rfl
@[simp] theorem latchStatus_cmdOp : (s.latchStatus).cmdOp = s.cmdOp := rfl
@[simp] theorem latchStatus_cmdArg : (s.latchStatus).cmdArg = s.cmdArg := rfl
@[simp] theorem latchStatus_cmdIssue : (s.latchStatus).cmdIssue = s.cmdIssue := rfl
@[simp] theorem latchStatus_busy : (s.latchStatus).busy = s.busy := rfl
@[simp] theorem latchStatus_result : (s.latchStatus).result = s.result := rfl
@[simp] theorem latchStatus_fault : (s.latchStatus).fault = s.fault := rfl
@[simp] theorem latchStatus_fcode : (s.latchStatus).fcode = s.fcode := rfl
@[simp] theorem latchStatus_op : (s.latchStatus).op = s.op := rfl
@[simp] theorem latchStatus_arg : (s.latchStatus).arg = s.arg := rfl
@[simp] theorem latchStatus_mpc : (s.latchStatus).mpc = s.mpc := rfl
@[simp] theorem latchStatus_twst : (s.latchStatus).twst = codeOf (statusByte s.code s.ps) := rfl
@[simp] theorem latchStatus_attempts : (s.latchStatus).attempts = s.attempts := rfl
@[simp] theorem latchStatus_ctrl : (s.latchStatus).ctrl = s.ctrl := rfl
@[simp] theorem latchStatus_code : (s.latchStatus).code = s.code := rfl
@[simp] theorem latchStatus_ps : (s.latchStatus).ps = s.ps := rfl
@[simp] theorem latchStatus_bitrate : (s.latchStatus).bitrate = s.bitrate := rfl
@[simp] theorem latchStatus_data : (s.latchStatus).data = s.data := rfl
@[simp] theorem latchStatus_puSda : (s.latchStatus).puSda = s.puSda := rfl
@[simp] theorem latchStatus_puScl : (s.latchStatus).puScl = s.puScl := rfl
@[simp] theorem latchStatus_ph : (s.latchStatus).ph = s.ph := rfl
@[simp] theorem latchStatus_inflight : (s.latchStatus).inflight = s.inflight := rfl
@[simp] theorem latchStatus_trace : (s.latchStatus).trace = s.trace := rfl
@[simp] theorem latchStatus_script : (s.latchStatus).script = s.script := rfl
@[simp] theorem latchStatus_hostPc : (s.latchStatus).hostPc = s.hostPc := rfl
@[simp] theorem latchStatus_hostVars : (s.latchStatus).hostVars = s.hostVars := rfl
@[simp] theorem latchStatus_hostWaits : (s.latchStatus).hostWaits = s.hostWaits := rfl
@[simp] theorem latchStatus_hostRet : (s.latchStatus).hostRet = s.hostRet := rfl
@[simp] theorem latchStatus_hostTaken : (s.latchStatus).hostTaken = s.hostTaken := rfl
@[simp] theorem latchStatus_readFailed : (s.latchStatus).readFailed = s.readFailed := rfl
@[simp] theorem latchStatus_hostHung : (s.latchStatus).hostHung = s.hostHung := rfl

/-! ### phaseDone -/

@[simp] theorem phaseDone_cfg : (s.phaseDone).cfg = s.cfg := rfl
@[simp] theorem phaseDone_turns : (s.phaseDone).turns = s.turns := rfl
@[simp] theorem phaseDone_cmdOp : (s.phaseDone).cmdOp = s.cmdOp := rfl
@[simp] theorem phaseDone_cmdArg : (s.phaseDone).cmdArg = s.cmdArg := rfl
@[simp] theorem phaseDone_cmdIssue : (s.phaseDone).cmdIssue = s.cmdIssue := rfl
@[simp] theorem phaseDone_busy : (s.phaseDone).busy = s.busy := rfl
@[simp] theorem phaseDone_result : (s.phaseDone).result = s.result := rfl
@[simp] theorem phaseDone_fault : (s.phaseDone).fault = s.fault := rfl
@[simp] theorem phaseDone_fcode : (s.phaseDone).fcode = s.fcode := rfl
@[simp] theorem phaseDone_op : (s.phaseDone).op = s.op := rfl
@[simp] theorem phaseDone_arg : (s.phaseDone).arg = s.arg := rfl
@[simp] theorem phaseDone_mpc : (s.phaseDone).mpc = s.mpc := rfl
@[simp] theorem phaseDone_twst : (s.phaseDone).twst = s.twst := rfl
@[simp] theorem phaseDone_attempts : (s.phaseDone).attempts = s.attempts := rfl
@[simp] theorem phaseDone_ctrl : (s.phaseDone).ctrl = { s.ctrl with int := true } := rfl
@[simp] theorem phaseDone_code : (s.phaseDone).code = s.code := rfl
@[simp] theorem phaseDone_ps : (s.phaseDone).ps = s.ps := rfl
@[simp] theorem phaseDone_bitrate : (s.phaseDone).bitrate = s.bitrate := rfl
@[simp] theorem phaseDone_data : (s.phaseDone).data = s.data := rfl
@[simp] theorem phaseDone_puSda : (s.phaseDone).puSda = s.puSda := rfl
@[simp] theorem phaseDone_puScl : (s.phaseDone).puScl = s.puScl := rfl
@[simp] theorem phaseDone_ph : (s.phaseDone).ph = s.ph := rfl
@[simp] theorem phaseDone_inflight : (s.phaseDone).inflight = .none := rfl
@[simp] theorem phaseDone_trace : (s.phaseDone).trace = s.trace := rfl
@[simp] theorem phaseDone_script : (s.phaseDone).script = s.script := rfl
@[simp] theorem phaseDone_hostPc : (s.phaseDone).hostPc = s.hostPc := rfl
@[simp] theorem phaseDone_hostVars : (s.phaseDone).hostVars = s.hostVars := rfl
@[simp] theorem phaseDone_hostWaits : (s.phaseDone).hostWaits = s.hostWaits := rfl
@[simp] theorem phaseDone_hostRet : (s.phaseDone).hostRet = s.hostRet := rfl
@[simp] theorem phaseDone_hostTaken : (s.phaseDone).hostTaken = s.hostTaken := rfl
@[simp] theorem phaseDone_readFailed : (s.phaseDone).readFailed = s.readFailed := rfl
@[simp] theorem phaseDone_hostHung : (s.phaseDone).hostHung = s.hostHung := rfl

end Sys2Proof.Machine
end

