-- ==== Sys2Proof/Laws/Ops.lean ====
section
/-! SUPPORT. One lemma per shared operation: everything it can do. Later proofs cite these instead of unfolding the
operations. -/

namespace Sys2Proof.Machine

open Host (Outcome)

variable {s t u : State}

/-! ### Steps and faults -/

@[simp] theorem whenLive_live (h : s.fault = false) : whenLive s t = .next t := by simp [whenLive, h]

@[simp] theorem whenLive_faulted (h : s.fault = true) : whenLive s t = .fault .quiescent := by simp [whenLive, h]

theorem whenLive_next : whenLive s t = .next u ↔ s.fault = false ∧ u = t := by
  cases h : s.fault
  · simp only [whenLive, h, Bool.false_eq_true, if_false, true_and]
    exact ⟨fun e => (Outcome.next.inj e).symm, fun e => e ▸ rfl⟩
  · simp [whenLive, h]

@[simp] theorem afterAccess_next_eq (k : State → State) :
    afterAccess (.next t) k = .next (if t.fault then t else k t) := rfl

theorem afterAccess_next {r : Outcome State Fault Refusal} {k : State → State} :
    afterAccess r k = .next u ↔ ∃ t, r = .next t ∧ u = if t.fault then t else k t := by
  cases r with
  | next v => exact ⟨fun e => ⟨v, rfl, (Outcome.next.inj e).symm⟩, fun ⟨_, e, e'⟩ => by cases e; rw [e']; rfl⟩
  | fault f => simp [afterAccess]
  | refused f => simp [afterAccess]

/-! ### Issue -/

/-- An issue raises F_BUSY, raises the legality table's fault, or begins the operation. -/
theorem issue_cases (op : Op) (a : Byte) (s : State) :
    (s.busy = true ∧ issue op a s = s.raise .busy) ∨
    (s.busy = false ∧ ∃ c, legalFault op s = some c ∧ issue op a s = s.raise c) ∨
    (s.busy = false ∧ legalFault op s = none ∧ issue op a s = s.begin op a) := by
  cases hb : s.busy
  · cases hl : legalFault op s <;> simp [issue, hb, hl]
  · simp [issue, hb]

/-- The legality table passes exactly as 41_sequencer.md R133 says. -/
theorem legalFault_none (op : Op) (s : State) :
    legalFault op s = none ↔
      (op = .none ∨ op = .init) ∨ s.ctrl.en = true ∧
        ((op = .start ∨ op = .startWait ∨ op = .stop) ∨ (op = .write ∧ s.ph = .mt) ∨
          ((op = .readAck ∨ op = .readNack) ∧ s.ph = .mr)) := by
  cases op <;> cases he : s.ctrl.en <;> simp [legalFault, he]

/-! ### The engine registers -/

@[simp] theorem launch_some (f : Inflight) (s : State) : launch (some f) s = { s with inflight := f } := rfl

@[simp] theorem launch_none (s : State) : launch none s = s.raise .sequence := rfl

/-- A CTRL command at rest writes its fields, and launches when bit 7 is set. -/
theorem ctrlCommand_rest (w : Byte) (phase : Option Inflight) (h : s.inflight = .none) :
    ctrlCommand w phase s =
      if isLaunch w then launch phase { s with ctrl := { s.ctrl.written w with int := false } }
      else { s with ctrl := s.ctrl.written w } := by
  simp [ctrlCommand, h]

theorem ctrlCommand_flight (w : Byte) (phase : Option Inflight) (h : s.inflight ≠ .none) :
    ctrlCommand w phase s = s.raise .sequence := by
  simp [ctrlCommand, h]

/-- What a CTRL command can do: fault at once, write fields and launch nothing, launch, or fault with the fields
written. -/
theorem ctrlCommand_cases (w : Byte) (phase : Option Inflight) (s : State) :
    (s.inflight ≠ .none ∧ ctrlCommand w phase s = s.raise .sequence) ∨
    (s.inflight = .none ∧ isLaunch w = false ∧ ctrlCommand w phase s = { s with ctrl := s.ctrl.written w }) ∨
    (∃ f, s.inflight = .none ∧ isLaunch w = true ∧ phase = some f ∧
      ctrlCommand w phase s = { s with ctrl := { s.ctrl.written w with int := false }, inflight := f }) ∨
    (s.inflight = .none ∧ isLaunch w = true ∧ phase = none ∧
      ctrlCommand w phase s = ({ s with ctrl := { s.ctrl.written w with int := false } }).raise .sequence) := by
  by_cases h : s.inflight = .none
  · cases hl : isLaunch w <;> cases phase <;> simp [ctrlCommand, h, hl]
  · simp [ctrlCommand, h]

/-- A CTRL command changes CTRL, inflight, FAULT and FCODE alone. -/
theorem ctrlCommand_frame (w : Byte) (phase : Option Inflight) (s : State) :
    ctrlCommand w phase s =
      { s with ctrl := (ctrlCommand w phase s).ctrl, inflight := (ctrlCommand w phase s).inflight,
               fault := (ctrlCommand w phase s).fault, fcode := (ctrlCommand w phase s).fcode } := by
  obtain ⟨-, h⟩ | ⟨-, -, h⟩ | ⟨f, -, -, -, h⟩ | ⟨-, -, -, h⟩ := ctrlCommand_cases w phase s <;> rw [h] <;> rfl

theorem regWrite_flight (r : Reg) (v : Byte) (h : s.inflight ≠ .none) : regWrite r v s = s.raise .sequence := by
  cases r <;> simp [regWrite, writeCtrl, writeStatus, writeBitrate, writeData, h]

theorem writeStatus_rest (v : Byte) (h : s.inflight = .none) :
    regWrite .status v s = { s with ps := v.extractLsb' 0 2 } := by simp [regWrite, writeStatus, h]

theorem writeBitrate_rest (v : Byte) (h : s.inflight = .none) :
    regWrite .bitrate v s = { s with bitrate := v } := by simp [regWrite, writeBitrate, h]

theorem writeData_rest (v : Byte) (h : s.inflight = .none) (hi : s.ctrl.int = true) :
    regWrite .data v s = { s with data := v, ctrl := { s.ctrl with wc := false } } := by
  simp [regWrite, writeData, h, hi]

theorem writeData_collision (v : Byte) (h : s.inflight = .none) (hi : s.ctrl.int = false) :
    regWrite .data v s = { s with ctrl := { s.ctrl with wc := true } } := by
  simp [regWrite, writeData, h, hi]

@[simp] theorem regRead_data : regRead .data s = s.data := rfl

@[simp] theorem regRead_status : regRead .status s = statusByte s.code s.ps := rfl

/-- The mask drops PS and keeps the code. -/
@[simp] theorem codeOf_statusByte (c : Code) (p : BitVec 2) : codeOf (statusByte c p) = c.value := by
  revert c p
  have h : ∀ p : BitVec 2, ∀ c ∈ [Code.busError, .start, .repStart, .mtSlaAck, .mtSlaNack, .mtDataAck, .mtDataNack,
      .arbLost, .mrSlaAck, .mrSlaNack, .mrDataAck, .mrDataNack, .noInfo], codeOf (statusByte c p) = c.value := by
    decide
  intro c p
  exact h p c (by cases c <;> simp)

/-- No two codes have one value. -/
theorem code_value_inj {c d : Code} (h : c.value = d.value) : c = d := by
  cases c <;> cases d <;> first | rfl | exact absurd h (by decide)

@[simp] theorem startFail_value (c : Code) : startFail c.value = false ↔ c = .start ∨ c = .repStart := by
  cases c <;> decide

/-! ### Completions -/

/-- A completion with an answer BUS may give, by phase. -/
theorem complete_stop (o : Answer) (h : s.inflight = .stop) : complete o s = stopDone s := by simp [complete, h]

theorem complete_abnormal (c : Abnormal) (h : s.inflight ≠ .none) (h' : s.inflight ≠ .stop) :
    complete (.abnormal c) s = (s.abnormal c).phaseDone := by
  cases hf : s.inflight <;> simp_all [complete]

theorem complete_start (h : s.inflight = .start) : complete .ok s = (startOk s).phaseDone := by simp [complete, h]

theorem complete_send (a : Ack) (h : s.inflight = .send) : complete (.bit a) s = (byteSent a s).phaseDone := by
  simp [complete, h]

theorem complete_recvAck (v : Byte) (h : s.inflight = .recvAck) :
    complete (.byte v) s = (receivedAck v s).phaseDone := by simp [complete, h]

theorem complete_recvNack (v : Byte) (h : s.inflight = .recvNack) :
    complete (.byte v) s = (receivedNack v s).phaseDone := by simp [complete, h]

/-- Everything ENGINE's turn can do. -/
theorem engineStep_cases (o : Answer) (s : State) :
    (engineStep o s = s) ∨
    (s.inflight = .stop ∧ engineStep o s = stopDone s) ∨
    (∃ c, o = .abnormal c ∧ s.inflight ≠ .none ∧ s.inflight ≠ .stop ∧ s.cfg.admitAbnormal = true ∧
      engineStep o s = (s.abnormal c).phaseDone) ∨
    (s.inflight = .start ∧ o = .ok ∧ engineStep o s = (startOk s).phaseDone) ∨
    (∃ a, s.inflight = .send ∧ o = .bit a ∧ engineStep o s = (byteSent a s).phaseDone) ∨
    (∃ v, s.inflight = .recvAck ∧ o = .byte v ∧ engineStep o s = (receivedAck v s).phaseDone) ∨
    (∃ v, s.inflight = .recvNack ∧ o = .byte v ∧ engineStep o s = (receivedNack v s).phaseDone) := by
  cases hf : s.inflight <;> cases o <;> cases ha : s.cfg.admitAbnormal <;>
    simp [engineStep, admitted, complete, hf, ha]

/-! ### START_WAIT's retry -/

/-- A retry goes back to W0, or ends at the bound. -/
theorem retry_cases (s : State) :
    retry s = { s with attempts := s.attempts + 1, mpc := .startWait .w0 } ∨
    (∃ n, s.cfg.waitBound = some n ∧ n ≤ s.attempts + 1 ∧
      retry s = { s with attempts := s.attempts + 1, result := 0x01, op := .none, busy := false }) := by
  cases hb : s.cfg.waitBound with
  | none => left; simp [retry, hb, State.goto]
  | some n =>
    by_cases h : n ≤ s.attempts + 1
    · exact .inr ⟨n, rfl, h, by simp [retry, hb, h, State.finish]⟩
    · left; simp [retry, hb, h, State.goto]

/-! ### HOST's variables -/

/-- A variable reads back what was written to it, and every other variable keeps its value. -/
theorem cellRead_cellWrite (lo : Nat) (cs : List Host.Cell) (h : cellsWfFrom lo cs = true) (a : Nat) (v : Byte)
    (x : Nat) : cellRead (cellWrite cs a v) x = if x = a then v else cellRead cs x := by
  have low : ∀ (ds : List Host.Cell) (l y : Nat), cellsWfFrom l ds = true → y < l → cellRead ds y = 0x00 := by
    intro ds
    induction ds with
    | nil => intros; rfl
    | cons d ds ih =>
      intro l y hw hy
      obtain ⟨k, u⟩ := d
      simp only [cellsWfFrom, Bool.and_eq_true, decide_eq_true_eq] at hw
      have : y ≠ k := by omega
      simp [cellRead, this, ih (k + 1) y hw.2 (by omega)]
  induction cs generalizing lo with
  | nil => by_cases hv : v = 0#8 <;> simp [cellWrite, hv, cellRead]
  | cons c cs ih =>
    obtain ⟨k, u⟩ := c
    simp only [cellsWfFrom, Bool.and_eq_true, decide_eq_true_eq] at h
    obtain ⟨⟨hk, hu⟩, hr⟩ := h
    unfold cellWrite
    split
    · rename_i hak
      have h0 : cellRead ((k, u) :: cs) a = 0x00 := by
        have : a ≠ k := by omega
        simp [cellRead, this, low cs (k + 1) a hr (by omega)]
      by_cases hv : v = 0#8
      · by_cases hx : x = a <;> simp [hv, hx, h0]
      · simp [hv, cellRead]
    · split
      · subst a
        by_cases hv : v = 0#8
        · by_cases hx : x = k <;> simp [hv, hx, cellRead, low cs (k + 1) k hr (by omega)]
        · by_cases hx : x = k <;> simp [hv, hx, cellRead]
      · rename_i h1 h2
        by_cases hx : x = k
        · have : x ≠ a := by omega
          simp [cellRead, hx, show k ≠ a by omega]
        · simp [cellRead, hx, ih (k + 1) hr]

/-- Writing a variable keeps the canonical form. -/
theorem cellWrite_wf (cs : List Host.Cell) (a : Nat) (v : Byte) (lo : Nat) (h : cellsWfFrom lo cs = true)
    (ha : lo ≤ a) : cellsWfFrom lo (cellWrite cs a v) = true := by
  have mono : ∀ (ds : List Host.Cell) (l m : Nat), m ≤ l → cellsWfFrom l ds = true → cellsWfFrom m ds = true := by
    intro ds l m hm hw
    cases ds with
    | nil => rfl
    | cons d ds =>
      obtain ⟨k, u⟩ := d
      simp only [cellsWfFrom, Bool.and_eq_true, decide_eq_true_eq] at hw ⊢
      exact ⟨⟨by omega, hw.1.2⟩, hw.2⟩
  induction cs generalizing lo with
  | nil => by_cases hv : v = 0#8 <;> simp [cellWrite, hv, cellsWfFrom, ha]
  | cons c cs ih =>
    obtain ⟨k, u⟩ := c
    simp only [cellsWfFrom, Bool.and_eq_true, decide_eq_true_eq] at h
    obtain ⟨⟨hk, hu⟩, hr⟩ := h
    replace hu : u ≠ 0#8 := by simpa using hu
    unfold cellWrite
    split
    · rename_i hak
      by_cases hv : v = 0#8
      · simp [hv, cellsWfFrom, hk, hr, hu]
      · simp [hv, cellsWfFrom, ha, hr, hu, show a + 1 ≤ k by omega]
    · split
      · by_cases hv : v = 0#8
        · simpa [hv] using mono cs (k + 1) lo (by omega) hr
        · simp [hv, cellsWfFrom, hk, hr]
      · have := ih (k + 1) hr (by omega)
        simp [cellsWfFrom, hk, this, hu]

end Sys2Proof.Machine
end

