-- ==== Sys2Proof/Laws/PerInstr.lean ====
section
/-! SUPPORT. The family EncodesItsRow: an instruction's word has the bits its row of spec/opcode_table.json fixes. -/

namespace Sys2Proof.Laws.EncodesItsRow

/-- `match` and `mask` of an instruction's row in spec/opcode_table.json, and the row's width in bits. -/
def row : Instr → Nat × Nat × Nat
  | .init => (16, 0x0100, 0xFFFF)
  | .start _ => (16, 0x0200, 0xFF00)
  | .startWait _ => (16, 0x0300, 0xFF00)
  | .write _ => (16, 0x0400, 0xFF00)
  | .readAck => (16, 0x0500, 0xFFFF)
  | .readNack => (16, 0x0600, 0xFFFF)
  | .stop => (16, 0x0700, 0xFFFF)
  | .eConfig => (8, 0x44, 0xFF)
  | .eStart => (8, 0xA4, 0xFF)
  | .eSendAddr => (8, 0x84, 0xFF)
  | .eSendData => (8, 0x84, 0xFF)
  | .eRecvAck => (8, 0xC4, 0xFF)
  | .eRecvNack => (8, 0x84, 0xFF)
  | .eStop => (8, 0x94, 0xFF)

/-- The word of an instruction as its row numbers it: its width and its bits. -/
def bits : CodeWord → Nat × Nat
  | .cmd w => (16, w.toNat)
  | .ctrl v => (8, v.toNat)

/-- The instruction's word has its row's width, and under the row's mask it is the row's match. -/
def Statement (i : Instr) : Prop :=
  (bits (encode i)).1 = (row i).1 ∧ (bits (encode i)).2 &&& (row i).2.2 = (row i).2.1

/-- The high byte of {op, arg} is op. -/
theorem high_byte (op arg : Byte) : (cmdOf op arg).toNat &&& 0xFF00 = op.toNat * 256 := by
  have h : ∀ n : Nat, n < 65536 → n &&& 0xFF00 = n / 256 * 256 := by
    intro n hn
    have : n &&& 0xFF00 = (n >>> 8 &&& 0xFF) <<< 8 := by
      apply Nat.eq_of_testBit_eq
      intro j
      have h2 : (0xFF00 : Nat) = 0xFF <<< 8 := rfl
      simp only [h2, Nat.testBit_and, Nat.testBit_shiftLeft, Nat.testBit_shiftRight]
      by_cases hj : 8 ≤ j
      · simp [hj, show 8 + (j - 8) = j by omega]
      · simp [hj]
    rw [this, show (0xFF : Nat) = 2 ^ 8 - 1 from rfl, Nat.and_two_pow_sub_one_eq_mod, Nat.shiftLeft_eq,
      Nat.shiftRight_eq_div_pow]
    omega
  rw [h _ (cmdOf op arg).isLt]
  have := congrArg BitVec.toNat (cmdOpField_cmdOf op arg)
  simp only [cmdOpField, BitVec.extractLsb'_toNat, Nat.shiftRight_eq_div_pow] at this
  have hw := (cmdOf op arg).isLt
  omega

theorem init : Statement .init := ⟨rfl, rfl⟩
theorem start (a : Byte) : Statement (.start a) := ⟨rfl, high_byte 0x02 a⟩
theorem startWait (a : Byte) : Statement (.startWait a) := ⟨rfl, high_byte 0x03 a⟩
theorem write (d : Byte) : Statement (.write d) := ⟨rfl, high_byte 0x04 d⟩
theorem readAck : Statement .readAck := ⟨rfl, rfl⟩
theorem readNack : Statement .readNack := ⟨rfl, rfl⟩
theorem stop : Statement .stop := ⟨rfl, rfl⟩
theorem eConfig : Statement .eConfig := ⟨rfl, rfl⟩
theorem eStart : Statement .eStart := ⟨rfl, rfl⟩
theorem eSendAddr : Statement .eSendAddr := ⟨rfl, rfl⟩
theorem eSendData : Statement .eSendData := ⟨rfl, rfl⟩
theorem eRecvAck : Statement .eRecvAck := ⟨rfl, rfl⟩
theorem eRecvNack : Statement .eRecvNack := ⟨rfl, rfl⟩
theorem eStop : Statement .eStop := ⟨rfl, rfl⟩

end Sys2Proof.Laws.EncodesItsRow
end

