-- ==== Sys2Proof/Laws/Step.lean ====
section
/-! SUPPORT. The step by kinds: what runs in each, and one inversion lemma. -/

namespace Sys2Proof.Machine

open Host (Outcome)

variable {s t : State} {ts : List Turn}

theorem step_issue (hc : configOk s.cfg = true) (hf : s.fault = false) (hr : noResetNext s = true)
    (hi : s.cmdIssue = true) : step s = issueStep s := by
  unfold step advance eventStep
  simp only [hc, if_true]
  split
  · rename_i h; simp [noResetNext, h] at hr
  · simp [hf, liveStep, hi]

theorem step_seq (hc : configOk s.cfg = true) (hf : s.fault = false) (hi : s.cmdIssue = false)
    (ht : s.turns = .seq :: ts) : step s = seqStep { s with turns := ts } := by
  simp [step, advance, eventStep, hc, ht, hf, liveStep, hi, takeTurn]

theorem step_engine (o : Answer) (hc : configOk s.cfg = true) (hf : s.fault = false) (hi : s.cmdIssue = false)
    (ht : s.turns = .engine o :: ts) : step s = .next (engineStep o { s with turns := ts }) := by
  simp [step, advance, eventStep, hc, ht, hf, liveStep, hi, takeTurn]

theorem step_host (hc : configOk s.cfg = true) (hf : s.fault = false) (hi : s.cmdIssue = false)
    (ht : s.turns = .host :: ts) : step s = .next (hostStep { s with turns := ts }) := by
  simp [step, advance, eventStep, hc, ht, hf, liveStep, hi, takeTurn]

theorem step_reset (hc : configOk s.cfg = true) (ht : s.turns = .reset :: ts) :
    step s = .next (resetEvent { s with turns := ts }) := by
  simp [step, advance, eventStep, hc, ht]

/-- Everything a step that answers a next state can be. -/
theorem step_cases (h : step s = .next t) :
    configOk s.cfg = true ∧
    ((∃ ts, s.turns = .reset :: ts ∧ t = resetEvent { s with turns := ts }) ∨
     (s.fault = false ∧ noResetNext s = true ∧
       ((s.cmdIssue = true ∧ issueStep s = .next t) ∨
        (s.cmdIssue = false ∧
          ((s.turns = [] ∧ t = s) ∨
           (∃ ts, s.turns = .seq :: ts ∧ seqStep { s with turns := ts } = .next t) ∨
           (∃ o ts, s.turns = .engine o :: ts ∧ t = engineStep o { s with turns := ts }) ∨
           (∃ ts, s.turns = .host :: ts ∧ t = hostStep { s with turns := ts })))))) := by
  by_cases hc : configOk s.cfg = true
  · refine ⟨hc, ?_⟩
    rcases htn : s.turns with _ | ⟨x, ts⟩
    · by_cases hf : s.fault = true
      · simp [step, advance, eventStep, hc, htn, hf] at h
      · simp only [Bool.not_eq_true] at hf
        by_cases hi : s.cmdIssue = true
        · refine .inr ⟨hf, by simp [noResetNext, htn], .inl ⟨hi, ?_⟩⟩
          rwa [step_issue hc hf (by simp [noResetNext, htn]) hi] at h
        · simp only [Bool.not_eq_true] at hi
          refine .inr ⟨hf, by simp [noResetNext, htn], .inr ⟨hi, .inl ⟨rfl, ?_⟩⟩⟩
          simpa [step, advance, eventStep, hc, htn, hf, liveStep, hi, eq_comm] using h
    · by_cases hx : x = .reset
      · subst hx
        refine .inl ⟨ts, rfl, ?_⟩
        rw [step_reset hc htn] at h
        injection h with h; exact h.symm
      · have hr : noResetNext s = true := by cases x <;> simp_all [noResetNext]
        by_cases hf : s.fault = true
        · exfalso; cases x <;> simp_all [step, advance, eventStep]
        · simp only [Bool.not_eq_true] at hf
          by_cases hi : s.cmdIssue = true
          · refine .inr ⟨hf, hr, .inl ⟨hi, ?_⟩⟩
            rwa [step_issue hc hf hr hi] at h
          · simp only [Bool.not_eq_true] at hi
            refine .inr ⟨hf, hr, .inr ⟨hi, .inr ?_⟩⟩
            cases x with
            | host => rw [step_host hc hf hi htn] at h; injection h with h; exact .inr (.inr ⟨ts, rfl, h.symm⟩)
            | seq => rw [step_seq hc hf hi htn] at h; exact .inl ⟨ts, rfl, h⟩
            | engine o =>
              rw [step_engine o hc hf hi htn] at h; injection h with h; exact .inr (.inl ⟨o, ts, rfl, h.symm⟩)
            | reset => exact absurd rfl hx
  · simp [step, advance, hc] at h

/-! ### What the issue step and the turns of ENGINE and HOST can do -/

/-- The command decoder gives commands of the port alone. -/
theorem decodeCmd_isCommand {w : CmdWord} {i : Instr} (h : decodeCmd w = .ok i) : i.isCommand = true := by
  simp only [decodeCmd, noOperand] at h
  split at h <;> (try split at h) <;> simp at h <;> subst h <;> rfl

/-- Every command's meaning is the issue of one operation. -/
theorem exec_command {i : Instr} (h : i.isCommand = true) :
    ∃ op a, op ≠ Op.none ∧ ∀ s, exec i s = whenLive s (issue op a s) := by
  cases i <;> simp [Instr.isCommand] at h
  · exact ⟨.init, 0x00, by simp, fun _ => rfl⟩
  · exact ⟨.start, _, by simp, fun _ => rfl⟩
  · exact ⟨.startWait, _, by simp, fun _ => rfl⟩
  · exact ⟨.write, _, by simp, fun _ => rfl⟩
  · exact ⟨.readAck, 0x00, by simp, fun _ => rfl⟩
  · exact ⟨.readNack, 0x00, by simp, fun _ => rfl⟩
  · exact ⟨.stop, 0x00, by simp, fun _ => rfl⟩

/-- An issue step that answers a state raised a fault, or began a legal operation while BUSY was 0. -/
theorem issueStep_cases (h : issueStep s = .next t) :
    (∃ c, t = ({ s with cmdIssue := false }).raise c) ∨
    (∃ op a, op ≠ Op.none ∧ s.busy = false ∧ legalFault op s = none ∧
      t = ({ s with cmdIssue := false }).begin op a) := by
  unfold issueStep at h
  split at h
  · rename_i i hd
    obtain ⟨op, a, ho, he⟩ := exec_command (decodeCmd_isCommand hd)
    rw [he, whenLive_next] at h
    obtain ⟨-, h'⟩ | ⟨-, c, -, h'⟩ | ⟨hb, hl, h'⟩ := issue_cases op a { s with cmdIssue := false }
    · exact .inl ⟨_, h.2.trans h'⟩
    · exact .inl ⟨_, h.2.trans h'⟩
    · exact .inr ⟨op, a, ho, hb, by cases op <;> exact hl, h.2.trans h'⟩
  · rw [whenLive_next] at h
    unfold issueReserved at h
    split at h <;> exact .inl ⟨_, h.2⟩

/-- ENGINE's turn leaves HOST's variables, the parameters, FAULT, FCODE and RESULT alone, only adds to the trace, and
changes nothing unless it completes the phase in flight. -/
theorem engineStep_frame (o : Answer) (s : State) :
    (engineStep o s).hostVars = s.hostVars ∧ (engineStep o s).cfg = s.cfg ∧ (engineStep o s).fault = s.fault ∧
    (engineStep o s).fcode = s.fcode ∧ (engineStep o s).result = s.result ∧
    (∃ es, (engineStep o s).trace = s.trace ++ es) ∧
    (engineStep o s = s ∨ s.inflight ≠ .none ∧ (engineStep o s).inflight = .none) := by
  rcases engineStep_cases o s with h | ⟨h', h⟩ | ⟨c, rfl, hn, -, -, h⟩ | ⟨h', rfl, h⟩ | ⟨a, h', rfl, h⟩ |
    ⟨v, h', rfl, h⟩ | ⟨v, h', rfl, h⟩ <;> rw [h]
  · simp
  · by_cases hp : s.ph = .idle <;> simp [stopDone, hp, State.emit, h']
  · simp [State.abnormal, State.emit, State.phaseDone, hn]
  · by_cases hp : s.ph = .idle <;> simp [startOk, hp, State.emit, h', State.phaseDone]
  · by_cases hp : s.ph = .started <;>
      simp [byteSent, addrSent, dataSent, hp, State.emit, h', State.phaseDone]
  · simp [receivedAck, State.emit, h', State.phaseDone]
  · simp [receivedNack, State.emit, h', State.phaseDone]

/-- GET_TEMP's statements up to its RETURN. -/
theorem stmtsOf_getTempReading (sel l m : Nat) :
    stmtsOf [.label 0] (getTempReading sel 0 l m) = some
      [.cmd 0x0100, .cmd 0x03B4, .ifResult 0x01 0, .cmd (if sel = 0 then 0x0407 else 0x0406), .cmd 0x03B5,
       .ifResult 0x01 0, .cmd 0x0500, .save l, .cmd 0x0500, .save m, .cmd 0x0600, .cmd 0x0700] := by
  cases sel with
  | zero => rfl
  | succ n => simp only [getTempReading, show tempCommand (n + 1) = cmdAmbient by simp [tempCommand]]; rfl

theorem untargeted_cmd {st : HostStmt} {w : CmdWord} : untargeted st = .cmd w ↔ st = .cmd w := by
  cases st <;> simp [untargeted]

theorem untargeted_save {st : HostStmt} {v : Nat} : untargeted st = .save v ↔ st = .save v := by
  cases st <;> simp [untargeted]

theorem untargeted_ifResult {st : HostStmt} {v : Byte} :
    untargeted st = .ifResult v 0 ↔ ∃ t, st = .ifResult v t := by
  cases st <;> simp [untargeted]

/-- When the statements taken are those of GET_TEMP. -/
theorem ranGetTemp_iff (l m : Nat) (taken : List HostStmt) :
    ranGetTemp l m taken = true ↔ l ≠ m ∧ ∃ c t t' rest, (c = 0x0406 ∨ c = 0x0407) ∧
      taken = [HostStmt.cmd 0x0700, .cmd 0x0600, .save m, .cmd 0x0500, .save l, .cmd 0x0500,
        .ifResult 0x01 t', .cmd 0x03B5, .cmd c, .ifResult 0x01 t, .cmd 0x03B4, .cmd 0x0100] ++ rest := by
  constructor
  · intro h
    simp only [ranGetTemp, stmtsOf_getTempReading, Bool.and_eq_true, bne_iff_ne, Bool.or_eq_true, beq_iff_eq,
      Option.some.injEq] at h
    refine ⟨h.1, ?_⟩
    have key : ∀ c : CmdWord,
        [HostStmt.cmd 0x0100, .cmd 0x03B4, .ifResult 0x01 0, .cmd c, .cmd 0x03B5, .ifResult 0x01 0, .cmd 0x0500,
          .save l, .cmd 0x0500, .save m, .cmd 0x0600, .cmd 0x0700] =
          (taken.take 12).reverse.map untargeted →
        ∃ t t' rest, taken = [HostStmt.cmd 0x0700, .cmd 0x0600, .save m, .cmd 0x0500, .save l, .cmd 0x0500,
          .ifResult 0x01 t', .cmd 0x03B5, .cmd c, .ifResult 0x01 t, .cmd 0x03B4, .cmd 0x0100] ++ rest := by
      intro c hc
      have hc' := congrArg List.reverse hc
      rw [List.map_reverse, List.reverse_reverse] at hc'
      have hc' := hc'.symm
      simp only [List.reverse_cons, List.reverse_nil, List.nil_append, List.cons_append, List.map_eq_cons_iff,
        List.map_eq_nil_iff, untargeted_cmd, untargeted_save, untargeted_ifResult] at hc'
      obtain ⟨_, _, h1, rfl, _, _, rfl, rfl, _, _, rfl, rfl, _, _, rfl, rfl, _, _, rfl, rfl, _, _, rfl, rfl,
        _, _, rfl, ⟨t', rfl⟩, _, _, rfl, rfl, _, _, rfl, rfl, _, _, rfl, ⟨t, rfl⟩, _, _, rfl, rfl, _, _, rfl, rfl,
        rfl⟩ := hc'
      exact ⟨t, t', taken.drop 12, by rw [← h1, List.take_append_drop]⟩
    obtain ⟨-, h | h⟩ := h
    · obtain ⟨t, t', rest, ht⟩ := key _ h
      exact ⟨_, t, t', rest, .inr rfl, ht⟩
    · obtain ⟨t, t', rest, ht⟩ := key _ h
      exact ⟨_, t, t', rest, .inl rfl, ht⟩
  · rintro ⟨hn, c, t, t', rest, rfl | rfl, rfl⟩ <;>
      simp [ranGetTemp, stmtsOf_getTempReading, hn, untargeted]

/-- Everything a RETURN of a conversion can do while HOST may take it. -/
theorem hostStep_conv {l m : Nat} (hr : hostReady s = true) (hs : s.script[s.hostPc]? = some (.ret (.conv l m))) :
    (s.readFailed = true ∧ ranGetTemp l m s.hostTaken = true ∧ s.hostRet = none ∧
      hostStep s = { s with hostHung := true, hostTaken := .ret (.conv l m) :: s.hostTaken }) ∨
    (¬ (s.readFailed = true ∧ ranGetTemp l m s.hostTaken = true) ∧
      hostStep s = { s with
        hostRet := some (convert (cellRead s.hostVars l) (cellRead s.hostVars m)),
        hostTaken := .ret (.conv l m) :: s.hostTaken }) := by
  have hn : s.hostRet = none ∧ s.hostHung = false := by simp_all [hostReady]
  have hstep : hostStep s = { s with
      hostRet := hostValue s (.conv l m), hostHung := (hostValue s (.conv l m)).isNone,
      hostTaken := .ret (.conv l m) :: s.hostTaken } := by simp [hostStep, hr, hs, hostRun]
  by_cases hf : s.readFailed = true ∧ ranGetTemp l m s.hostTaken = true
  · exact .inl ⟨hf.1, hf.2, hn.1, by simp [hstep, hostValue, hf, hn]⟩
  · exact .inr ⟨hf, by simp [hstep, hostValue, if_neg hf, hn]⟩

/-- HOST's turn changes the port and HOST's own state alone. -/
theorem hostStep_frame (s : State) :
    hostStep s = { s with
      cmdOp := (hostStep s).cmdOp, cmdArg := (hostStep s).cmdArg, cmdIssue := (hostStep s).cmdIssue,
      hostPc := (hostStep s).hostPc, hostVars := (hostStep s).hostVars, hostRet := (hostStep s).hostRet,
      hostTaken := (hostStep s).hostTaken, hostHung := (hostStep s).hostHung } := by
  unfold hostStep
  split
  · split
    · rename_i st _; cases st <;> rfl
    · rfl
  · rfl

/-- HOST's turn keeps the form of its variables. -/
theorem hostStep_cellsWf (h : cellsWf s.hostVars = true) : cellsWf (hostStep s).hostVars = true := by
  unfold hostStep
  split
  · split
    · rename_i st _
      cases st
      case save v => exact cellWrite_wf _ _ _ 0 h (Nat.zero_le _)
      all_goals exact h
    · exact h
  · exact h

end Sys2Proof.Machine
end

