-- ==== Sys2Proof/Laws/Sequencer.lean ====
section
/-! SUPPORT. SEQ's micro-steps: one lemma per kind of access, and a run as a chain of steps. -/

namespace Sys2Proof.Machine

open Host (Outcome)

variable {s t : State}

/-! ### Runs -/

@[simp] theorem run_zero (s : State) : runSteps 0 s = .next s := rfl

/-- One step of a run. -/
theorem run_succ {k : Nat} (h : step s = .next t) : runSteps (k + 1) s = runSteps k t := by
  rw [runSteps, h]

/-- A run in two parts. -/
theorem run_add {j k : Nat} (h : runSteps j s = .next t) : runSteps (j + k) s = runSteps k t := by
  induction j generalizing s with
  | zero =>
    cases h
    rw [Nat.zero_add]
  | succ j ih =>
    rw [Nat.add_right_comm, runSteps]
    rw [runSteps] at h
    cases hs : step s with
    | next u =>
      rw [hs] at h
      exact ih h
    | fault f => rw [hs] at h; cases h
    | refused f => rw [hs] at h; cases h

/-- The step after HOST has driven a command on the port. -/
theorem step_drivePort {w : CmdWord} {i : Instr} (hc : configOk s.cfg = true) (hf : s.fault = false)
    (hr : noResetNext s = true) (hd : decodeCmd w = .ok i) :
    step (drivePort w s) =
      exec i { s with cmdOp := cmdOpField w, cmdArg := cmdArgField w, cmdIssue := false } := by
  rw [step_issue (s := drivePort w s) hc hf hr rfl]
  simp [issueStep, portWord, drivePort, cmdOf_fields, hd]

/-! ### Accesses -/

/-- A CTRL write runs an engine command in a phase state in which its value has a meaning, and launches its phase. -/
theorem ctrlThen_launch {w : Byte} {f : Inflight} (k : State → State) (hf : s.fault = false)
    (hn : s.inflight = .none) (hl : launchOf w s.ph = some f) :
    ctrlThen w k s =
      .next (k { s with ctrl := { s.ctrl.written w with int := false }, inflight := f }) := by
  have key : ∀ (ph : Phase), launchOf w ph = some f → ph = s.ph → isLaunch w = true ∧
      ∃ i, decodeCtrl ph w = .ok i ∧ exec i s = whenLive s (ctrlCommand w (some f) s) := by
    intro ph hl hph
    unfold launchOf at hl
    split at hl
    · cases hl; subst w; exact ⟨rfl, .eStart, rfl, rfl⟩
    · split at hl
      · cases hl; subst w; exact ⟨rfl, .eStop, rfl, rfl⟩
      · split at hl
        · subst w
          refine ⟨rfl, ?_⟩
          cases ph <;> simp only [Option.some.injEq, reduceCtorEq] at hl <;> subst hl
          · exact ⟨.eSendAddr, rfl, by simp [exec, execESendAddr, sendPhase, ← hph]⟩
          · exact ⟨.eSendData, rfl, by simp [exec, execESendData, sendPhase, ← hph]⟩
          · exact ⟨.eRecvNack, rfl, by simp [exec, execERecvNack, recvPhase, ← hph]⟩
        · split at hl
          · subst w
            refine ⟨rfl, ?_⟩
            cases ph <;> simp only [Option.some.injEq, reduceCtorEq] at hl
            subst hl
            exact ⟨.eRecvAck, rfl, by simp [exec, execERecvAck, recvPhase, ← hph]⟩
          · cases hl
  obtain ⟨hw, i, hd, he⟩ := key s.ph hl rfl
  simp [ctrlThen, engineWrite, hd, he, hf, ctrlCommand_rest w (some f) hn, hw]

/-- The configuration write launches nothing. -/
theorem ctrlThen_config (k : State → State) (hf : s.fault = false) (hn : s.inflight = .none) :
    ctrlThen 0x44 k s = .next (k { s with ctrl := s.ctrl.written 0x44 }) := by
  have he : ctrlThen 0x44 k s = afterAccess (whenLive s (ctrlCommand 0x44 none s)) k := rfl
  rw [he, whenLive_live hf, ctrlCommand_rest 0x44 none hn]
  simp [isLaunch, hf]

theorem writeThen_status (v : Byte) (k : State → State) (hf : s.fault = false) (hn : s.inflight = .none) :
    writeThen .status v k s = .next (k { s with ps := v.extractLsb' 0 2 }) := by
  simp [writeThen, writeStatus_rest v hn, hf]

theorem writeThen_bitrate (v : Byte) (k : State → State) (hf : s.fault = false) (hn : s.inflight = .none) :
    writeThen .bitrate v k s = .next (k { s with bitrate := v }) := by
  simp [writeThen, writeBitrate_rest v hn, hf]

theorem writeThen_data (v : Byte) (k : State → State) (hf : s.fault = false) (hn : s.inflight = .none)
    (hi : s.ctrl.int = true) :
    writeThen .data v k s = .next (k { s with data := v, ctrl := { s.ctrl with wc := false } }) := by
  simp [writeThen, writeData_rest v hn hi, hf]

@[simp] theorem waitUntil_taken (k : State → State) (hf : s.fault = false) : waitUntil true k s = .next (k s) := by
  simp [waitUntil, hf]

@[simp] theorem waitUntil_held (k : State → State) (hf : s.fault = false) : waitUntil false k s = .next s := by
  simp [waitUntil, hf]

/-- The fields each CTRL value SEQ writes leaves behind. -/
theorem written_values (c : Ctrl) :
    c.written 0x44 = { c with ea := true, sta := false, sto := false, en := true, ie := false } ∧
    c.written 0xA4 = { c with ea := false, sta := true, sto := false, en := true, ie := false } ∧
    c.written 0x84 = { c with ea := false, sta := false, sto := false, en := true, ie := false } ∧
    c.written 0xC4 = { c with ea := true, sta := false, sto := false, en := true, ie := false } ∧
    c.written 0x94 = { c with ea := false, sta := false, sto := true, en := true, ie := false } :=
  ⟨rfl, rfl, rfl, rfl, rfl⟩

end Sys2Proof.Machine
end

