-- ==== Sys2Proof/Machine/Notation.lean ====
section
/-! DEFINITION. HOST's script notation as text (30_encoding.md R92): a line of characters is cut into tokens and read as
script lines, which the assembler of Machine/HostAgent.lean takes. DESIGN CHOICE for what R92 does not spell out (log
entry 22). -/

namespace Sys2Proof.Machine

/-- The notation's words (30_encoding.md R92, R93; 42_host_transaction.md R164). -/
inductive Keyword
  | init
  | start
  | startWait
  | write
  | readAck
  | readNack
  | stop
  | save
  | ifWord
  | resultWord
  | equals
  | goto
  | ret
  | conv
  | sentinel
  | startW
  | startR
  | startWaitW
  | startWaitR
  | getTemp
  deriving DecidableEq, Repr

/-- A token of a line. -/
inductive Token
  | kw (k : Keyword)
  | name (cs : List Char)
  | num (v : Int)
  | colon
  | comma
  | lpar
  | rpar
  deriving DecidableEq, Repr

/-- How each word is spelled. -/
def keywords : List (List Char × Keyword) :=
  [(['I', 'N', 'I', 'T'], .init),
   (['S', 'T', 'A', 'R', 'T'], .start),
   (['S', 'T', 'A', 'R', 'T', '_', 'W', 'A', 'I', 'T'], .startWait),
   (['W', 'R', 'I', 'T', 'E'], .write),
   (['R', 'E', 'A', 'D', '_', 'A', 'C', 'K'], .readAck),
   (['R', 'E', 'A', 'D', '_', 'N', 'A', 'C', 'K'], .readNack),
   (['S', 'T', 'O', 'P'], .stop),
   (['S', 'A', 'V', 'E'], .save),
   (['I', 'F'], .ifWord),
   (['R', 'E', 'S', 'U', 'L', 'T'], .resultWord),
   (['=', '='], .equals),
   (['G', 'O', 'T', 'O'], .goto),
   (['R', 'E', 'T', 'U', 'R', 'N'], .ret),
   (['c', 'o', 'n', 'v'], .conv),
   (['S', 'E', 'N', 'T', 'I', 'N', 'E', 'L'], .sentinel),
   (['S', 'T', 'A', 'R', 'T', '_', 'W'], .startW),
   (['S', 'T', 'A', 'R', 'T', '_', 'R'], .startR),
   (['S', 'T', 'A', 'R', 'T', '_', 'W', 'A', 'I', 'T', '_', 'W'], .startWaitW),
   (['S', 'T', 'A', 'R', 'T', '_', 'W', 'A', 'I', 'T', '_', 'R'], .startWaitR),
   (['G', 'E', 'T', '_', 'T', 'E', 'M', 'P'], .getTemp)]

/-- The word a spelling stands for. -/
def keywordOf (cs : List Char) : List (List Char × Keyword) → Option Keyword
  | [] => none
  | (spelling, k) :: ks => if cs = spelling then some k else keywordOf cs ks

/-- A decimal digit's value. -/
def decDigit (c : Char) : Option Nat :=
  if 48 ≤ c.toNat ∧ c.toNat ≤ 57 then some (c.toNat - 48) else none

/-- A hex digit's value, in either case. -/
def hexDigitValue (c : Char) : Option Nat :=
  if 48 ≤ c.toNat ∧ c.toNat ≤ 57 then some (c.toNat - 48)
  else if 65 ≤ c.toNat ∧ c.toNat ≤ 70 then some (c.toNat - 55)
  else if 97 ≤ c.toNat ∧ c.toNat ≤ 102 then some (c.toNat - 87)
  else none

/-- Digits in a base, most significant first, after the value read so far. -/
def digitsFrom (base : Nat) (digit : Char → Option Nat) : List Char → Nat → Option Nat
  | [], acc => some acc
  | c :: cs, acc =>
    match digit c with
    | some d => digitsFrom base digit cs (acc * base + d)
    | none => none

/-- A number: `0x..` or decimal, with a minus sign or without (30_encoding.md R92). -/
def numberOf : List Char → Option Int
  | [] => none
  | ['-'] => none
  | ['0', 'x'] => none
  | '0' :: 'x' :: cs => (digitsFrom 16 hexDigitValue cs 0).map fun n => (n : Int)
  | '-' :: cs => (digitsFrom 10 decDigit cs 0).map fun n => -(n : Int)
  | c :: cs => (digitsFrom 10 decDigit (c :: cs) 0).map fun n => (n : Int)

/-- A name's first character is a letter or an underscore. -/
def startsName : List Char → Bool
  | [] => false
  | c :: _ => c.isAlpha || c == '_'

/-- One word as a token. -/
def tokenOf (cs : List Char) : Option Token :=
  match keywordOf cs keywords, numberOf cs with
  | some k, _ => some (.kw k)
  | none, some v => some (.num v)
  | none, none => if startsName cs then some (.name cs) else none

/-- The punctuation that is a token by itself. -/
def punctuation (c : Char) : Option Token :=
  if c = ':' then some .colon
  else if c = ',' then some .comma
  else if c = '(' then some .lpar
  else if c = ')' then some .rpar
  else none

/-- The token of the word read so far, if there is one. -/
def pending (word : List Char) : Option (List Token) :=
  if word = [] then some [] else (tokenOf word).map fun t => [t]

/-- The tokens of a line up to its comment (30_encoding.md R92), after the word read so far. -/
def tokens : List Char → List Char → Option (List Token)
  | [], word => pending word
  | c :: cs, word =>
    if c = ';' then pending word
    else if c = ' ' ∨ c = '\t' then
      match pending word, tokens cs [] with
      | some a, some b => some (a ++ b)
      | _, _ => none
    else
      match punctuation c with
      | some p =>
        match pending word, tokens cs [] with
        | some a, some b => some (a ++ p :: b)
        | _, _ => none
      | none => tokens cs (word ++ [c])

/-- The names a script has used so far: a label and a variable stand for their place in these lists. -/
structure Names where
  labels : List (List Char)
  vars   : List (List Char)
  deriving DecidableEq, Repr

/-- No label used, and the two variables of 42_host_transaction.md R164. -/
def Names.start : Names := { labels := [], vars := [['l', 's', 'b'], ['m', 's', 'b']] }

/-- A name's place in a list, from `n` on. -/
def placeOf (name : List Char) : List (List Char) → Nat → Option Nat
  | [], _ => none
  | x :: xs, n => if x = name then some n else placeOf name xs (n + 1)

/-- The number of a name, and the list with the name in it. -/
def numbered (name : List Char) (names : List (List Char)) : Nat × List (List Char) :=
  match placeOf name names 0 with
  | some n => (n, names)
  | none => (names.length, names ++ [name])

/-- The number of a label. -/
def Names.label (ns : Names) (name : List Char) : Nat × Names :=
  ((numbered name ns.labels).1, { ns with labels := (numbered name ns.labels).2 })

/-- The number of a variable. -/
def Names.var (ns : Names) (name : List Char) : Nat × Names :=
  ((numbered name ns.vars).1, { ns with vars := (numbered name ns.vars).2 })

/-- A number no label of the script has: the empty name takes its place, which no word spells. DESIGN CHOICE (log entry
24): each GET_TEMP's label `absent` is hidden, apart from the script's own labels and from every other GET_TEMP's. -/
def Names.freshLabel (ns : Names) : Nat × Names := (ns.labels.length, { ns with labels := ns.labels ++ [[]] })

/-- A byte operand (30_encoding.md R92). -/
def byteOperand (v : Int) : Option Byte := if 0 ≤ v ∧ v ≤ 255 then some (BitVec.ofInt 8 v) else none

/-- A number that is not negative. -/
def natOperand (v : Int) : Option Nat := if 0 ≤ v then some v.toNat else none

/-- The statement on a line, without its labels (30_encoding.md R92, R93). DESIGN CHOICE (log entry 22): the value that IF
compares RESULT with is a byte, and a script with another value there is refused. -/
def statementOf (ns : Names) : List Token → Option (Names × HostLine)
  | [.kw .init] => some (ns, .cmd .init)
  | [.kw .start, .num v] => (byteOperand v).map fun b => (ns, .cmd (.start b))
  | [.kw .startWait, .num v] => (byteOperand v).map fun b => (ns, .cmd (.startWait b))
  | [.kw .write, .num v] => (byteOperand v).map fun b => (ns, .cmd (.write b))
  | [.kw .readAck] => some (ns, .cmd .readAck)
  | [.kw .readNack] => some (ns, .cmd .readNack)
  | [.kw .stop] => some (ns, .cmd .stop)
  | [.kw .save, .name x] => some ((ns.var x).2, .save (ns.var x).1)
  | [.kw .ifWord, .kw .resultWord, .kw .equals, .num v, .kw .goto, .name l] =>
    (byteOperand v).map fun b => ((ns.label l).2, .ifResult b (ns.label l).1)
  | [.kw .ret, .num v] => some (ns, .ret (.num v))
  | [.kw .ret, .kw .sentinel] => some (ns, .ret (.num sentinel))
  | [.kw .ret, .kw .conv, .lpar, .name x, .comma, .name y, .rpar] =>
    some (((ns.var x).2.var y).2, .ret (.conv (ns.var x).1 ((ns.var x).2.var y).1))
  | [.kw .startW, .num v] => (natOperand v).map fun a => (ns, .startW a)
  | [.kw .startR, .num v] => (natOperand v).map fun a => (ns, .startR a)
  | [.kw .startWaitW, .num v] => (natOperand v).map fun a => (ns, .startWaitW a)
  | [.kw .startWaitR, .num v] => (natOperand v).map fun a => (ns, .startWaitR a)
  | [.kw .getTemp, .num v] => some (ns.freshLabel.2, .getTemp v.natAbs ns.freshLabel.1)
  | _ => none

/-- The lines on one line of text: a label or none, then a statement or none. -/
def linesOf (ns : Names) (ts : List Token) : Option (Names × List HostLine) :=
  match ts with
  | [] => some (ns, [])
  | [.name l, .colon] => some ((ns.label l).2, [.label (ns.label l).1])
  | .name l :: .colon :: rest =>
    (statementOf (ns.label l).2 rest).map fun r => (r.1, [.label (ns.label l).1, r.2])
  | _ => (statementOf ns ts).map fun r => (r.1, [r.2])

/-- A script's text, line by line, after the names used so far. -/
def parseLines : List (List Char) → Names → Option (List HostLine)
  | [], _ => some []
  | cs :: rest, ns =>
    match tokens cs [] with
    | none => none
    | some ts =>
      match linesOf ns ts with
      | none => none
      | some (ns', ls) => (parseLines rest ns').map fun more => ls ++ more

/-- The script a text is. -/
def parseScript (text : List (List Char)) : Option (List HostLine) := parseLines text Names.start

/-- A text assembled into HOST's program. -/
def assembleText (text : List (List Char)) : Option (List HostStmt) := (parseScript text).bind assemble

end Sys2Proof.Machine
end

