-- ==== Sys2Proof/Tests/Slice0.lean ====
section
/-! SUPPORT. Tests: what WellFormed refuses, every constructor's word written out from the spec's encoding, single steps
with the values of 95_test_vectors.md, and for every obligation with hypotheses a state that meets them. -/

namespace Sys2Proof.Tests

open Sys2Proof.Machine

/-! ### States and readings the tests use -/

/-- The next state, where there is one. -/
def nextOf : Host.Outcome State Fault Refusal → Option State
  | .next t => some t
  | .fault _ => none
  | .refused _ => none

/-- CTRL with INT, EA, STA and EN as given. -/
def ctrlOf (int ea sta en : Bool) : Ctrl :=
  { int := int, ea := ea, sta := sta, sto := false, wc := false, en := en, ie := false }

/-- The state after INIT from reset, as 95_test_vectors.md gives it. -/
def afterInit : State :=
  { State.reset with ctrl := ctrlOf false true false true, bitrate := 0x48, puSda := true, puScl := true }

/-- After INIT, with the bus held in a phase state, CTRL 0x84 and a byte in DATA. -/
def held (ph : Phase) (code : Code) (d : Byte) : State :=
  { afterInit with ctrl := ctrlOf true false false true, ph := ph, code := code, data := d }

/-- SEQ at a label of an operation with an operand. -/
def atLabelOf (op : Op) (l : Label) (a : Byte) (s : State) : State :=
  { s with op := op, mpc := l, arg := a, busy := true }

/-- A phase in flight, with CTRL as its launch leaves it. -/
def flying (f : Inflight) (ea sta : Bool) (s : State) : State :=
  { s with inflight := f, ctrl := { ctrlOf false ea sta true with sto := f == .stop } }

/-- One turn to come. -/
def turn (t : Turn) (s : State) : State := { s with turns := [t] }

/-- After INIT under other parameters. -/
def under (cfg : Config) (s : State) : State := { s with cfg := cfg }

/-- FAULT and FCODE after a step. -/
def faultOf (r : Host.Outcome State Fault Refusal) : Option (Bool × BitVec 4) :=
  (nextOf r).map fun t => (t.fault, t.fcode)

/-- CTRL and the phase in flight after a step. -/
def launchedOf (r : Host.Outcome State Fault Refusal) : Option (Byte × Inflight) :=
  (nextOf r).map fun t => (regRead .ctrl t, t.inflight)

/-- CTRL, STATUS, the phase state, DATA and the trace after a step. -/
def engineOf (r : Host.Outcome State Fault Refusal) : Option (Byte × Byte × Phase × Byte × List Event) :=
  (nextOf r).map fun t => (regRead .ctrl t, regRead .status t, t.ph, regRead .data t, t.trace)

/-- RESULT and BUSY after a step. -/
def resultOf (r : Host.Outcome State Fault Refusal) : Option (Byte × Bool) :=
  (nextOf r).map fun t => (t.result, t.busy)

/-- The place of SEQ after a step. -/
def placeOfSeq (r : Host.Outcome State Fault Refusal) : Option (Op × Label × Byte × Bool) :=
  (nextOf r).map fun t => (t.op, t.mpc, t.arg, t.busy)

/-! ### WellFormed -/

theorem test_wf_send_addr_outside_started : Instr.wellFormedIn .mt .eSendAddr = false := by decide
theorem test_wf_send_data_outside_mt : Instr.wellFormedIn .started .eSendData = false := by decide
theorem test_wf_recv_ack_outside_mr : Instr.wellFormedIn .mrEnd .eRecvAck = false := by decide
theorem test_wf_recv_nack_outside_mr : Instr.wellFormedIn .idle .eRecvNack = false := by decide
theorem test_wf_addr7_too_large :
    HostLine.wellFormed (.startW 0x80) = false ∧ HostLine.wellFormed (.startR 0x80) = false ∧
    HostLine.wellFormed (.startWaitW 0x80) = false ∧ HostLine.wellFormed (.startWaitR 0x80) = false ∧
    HostLine.wellFormed (.startWaitR 0x7F) = true := by decide
theorem test_wf_engine_command_line : HostLine.wellFormed (.cmd .eStart) = false := by decide
theorem test_wf_label_twice : scriptWellFormed [.label 0, .label 0] = false := by decide
theorem test_wf_label_missing : scriptWellFormed [.ifResult 0x01 0] = false := by decide
theorem test_wf_label_there : scriptWellFormed [.ifResult 0x01 0, .label 0] = true := by decide
theorem test_wf_div_negative : configOk { Config.default with fCpu := 1000000 } = false := by decide
theorem test_wf_div_too_large : configOk { Config.default with fCpu := 60000000 } = false := by decide
theorem test_wf_bound_zero : configOk { Config.default with waitBound := some 0 } = false := by decide
theorem test_bad_config_refused :
    step (under { Config.default with fCpu := 1000000 } State.reset) = .refused .configuration := by rfl

/-! ### Decoding: every row of the opcode table, its word written out from 30_encoding.md R81, R82 and R86 -/

theorem test_word_init : decodeCmd 0b0000000100000000 = .ok .init := by rfl
theorem test_word_start : decodeCmd 0b0000001010110100 = .ok (.start 0xB4) := by rfl
theorem test_word_start_wait : decodeCmd 0b0000001110110101 = .ok (.startWait 0xB5) := by rfl
theorem test_word_write : decodeCmd 0b0000010000000111 = .ok (.write 0x07) := by rfl
theorem test_word_read_ack : decodeCmd 0b0000010100000000 = .ok .readAck := by rfl
theorem test_word_read_nack : decodeCmd 0b0000011000000000 = .ok .readNack := by rfl
theorem test_word_stop : decodeCmd 0b0000011100000000 = .ok .stop := by rfl
theorem test_word_e_config : decodeCtrl .idle 0b01000100 = .ok .eConfig := by rfl
theorem test_word_e_start : decodeCtrl .mt 0b10100100 = .ok .eStart := by rfl
theorem test_word_e_send_addr : decodeCtrl .started 0b10000100 = .ok .eSendAddr := by rfl
theorem test_word_e_send_data : decodeCtrl .mt 0b10000100 = .ok .eSendData := by rfl
theorem test_word_e_recv_ack : decodeCtrl .mr 0b11000100 = .ok .eRecvAck := by rfl
theorem test_word_e_recv_nack : decodeCtrl .mr 0b10000100 = .ok .eRecvNack := by rfl
theorem test_word_e_stop : decodeCtrl .mrEnd 0b10010100 = .ok .eStop := by rfl

/-- EN-8. -/
theorem test_reserved_op :
    decodeCmd 0x0000 = .error .reservedOp ∧ decodeCmd 0x0800 = .error .reservedOp ∧
    decodeCmd 0xFF00 = .error .reservedOp := ⟨rfl, rfl, rfl⟩

/-- EN-9. -/
theorem test_reserved_arg :
    decodeCmd 0x0101 = .error .reservedArg ∧ decodeCmd 0x0580 = .error .reservedArg ∧
    decodeCmd 0x06FF = .error .reservedArg ∧ decodeCmd 0x0701 = .error .reservedArg := ⟨rfl, rfl, rfl, rfl⟩

/-- 40_engine.md R123, and 30_encoding.md R87 for the two values that need a phase state. -/
theorem test_reserved_ctrl :
    decodeCtrl .mr 0xB4 = .error .ctrlValue ∧ decodeCtrl .mrEnd 0x84 = .error .ctrlPhase ∧
    decodeCtrl .mt 0xC4 = .error .ctrlPhase := ⟨rfl, rfl, rfl⟩

/-- The words of the table as the host numbers them. -/
theorem test_table_words :
    decodeTableWord 16 0x0200 = some (.start 0x00) ∧ decodeTableWord 16 0x0800 = none ∧
    decodeTableWord 8 0xC4 = some .eRecvAck ∧ decodeTableWord 8 0x84 = some .eSendAddr ∧
    decodeTableWord 8 0x45 = none := by decide

/-! ### One step -/

/-- FT-16: INIT is legal from reset. -/
theorem test_init_from_reset :
    placeOfSeq (step (State.reset.withFetchWord 16 0x0100)) = some (.init, .init .i0, 0x00, true) := by decide

/-- SQ-INIT-1: I3 writes BITRATE 0x48 at 16 MHz. -/
theorem test_init_bitrate :
    (nextOf (step (turn .seq (atLabelOf .init (.init .i3) 0x00 State.reset)))).map
      (fun t => (t.bitrate, t.mpc)) = some (0x48, .init .i6) := by decide

theorem test_start_latches_its_operand :
    placeOfSeq (step (afterInit.withFetchWord 16 0x02B4)) = some (.start, .start .s0, 0xB4, true) := by decide

/-- SQ-START-7: under ORIGINAL an acknowledged address still gives 0x01. -/
theorem test_start_original_check :
    resultOf (step (turn .seq (under { Config.default with ackCheck := .original }
      (atLabelOf .start (.start .s6) 0xB4 (held .mt .mtSlaAck 0xB4))))) = some (0x01, false) := by decide

/-- FT-2. -/
theorem test_start_wait_not_enabled : faultOf (exec (.startWait 0xB4) State.reset) = some (true, 0x3) := by decide

/-- SQ-SW-9: under the alternative NACK set a NACKed SLA+R finishes with 0x00. -/
theorem test_start_wait_upstream_set :
    resultOf (step (turn .seq (under { Config.default with nackSet := .upstream }
      (atLabelOf .startWait (.startWait .w6) 0xB5 (held .mrEnd .mrSlaNack 0xB5))))) = some (0x00, false) := by decide

/-- FT-11: a write after SLA+R. -/
theorem test_write_in_receiver_mode :
    faultOf (exec (.write 0x06) (held .mr .mrSlaAck 0xB5)) = some (true, 0x4) := by decide

/-- SQ-WR-2: T3 after a NACKed byte. -/
theorem test_write_nacked :
    resultOf (step (turn .seq (atLabelOf .write (.write .t3) 0x06 (held .mt .mtDataNack 0x06)))) =
      some (0x01, false) := by decide

/-- FT-9. -/
theorem test_read_ack_after_init : faultOf (exec .readAck afterInit) = some (true, 0x4) := by decide

/-- SQ-RA-3: A2 after an abnormal outcome returns the stale DATA. -/
theorem test_read_ack_stale :
    resultOf (step (turn .seq (atLabelOf .readAck (.readAck .a2) 0x00 (held .idle .arbLost 0xB5)))) =
      some (0xB5, false) := by decide

/-- FT-10: a read after SLA+W. -/
theorem test_read_nack_in_transmitter_mode :
    faultOf (exec .readNack (held .mt .mtSlaAck 0xB4)) = some (true, 0x4) := by decide

/-- SQ-RN-1: N2 returns the byte. -/
theorem test_read_nack_result :
    resultOf (step (turn .seq (atLabelOf .readNack (.readNack .n2) 0x00 (held .mrEnd .mrDataNack 0xAB)))) =
      some (0xAB, false) := by decide

/-- FT-7: F_BUSY. -/
theorem test_stop_while_busy :
    faultOf (exec .stop (atLabelOf .startWait (.startWait .w1) 0xB4 afterInit)) = some (true, 0x2) := by decide

/-- SQ-SP-1: P1 after the STOP. -/
theorem test_stop_finishes :
    resultOf (step (turn .seq (atLabelOf .stop (.stop .p1) 0x00
      { afterInit with ctrl := ctrlOf false false false true }))) = some (0x00, false) := by decide

/-- EG-1. -/
theorem test_e_config : launchedOf (exec .eConfig State.reset) = some (0x44, .none) := by decide

/-- SQ-INIT-4: INT is kept. -/
theorem test_e_config_keeps_int :
    launchedOf (exec .eConfig (held .mt .mtSlaAck 0xB4)) = some (0xC4, .none) := by decide

/-- EG-2. -/
theorem test_e_start : launchedOf (exec .eStart afterInit) = some (0x24, .start) := by decide

/-- EG-3: the completion in P_MT. -/
theorem test_e_start_repeated :
    engineOf (step (turn (.engine .ok) (flying .start false true (held .mt .mtDataAck 0x06)))) =
      some (0xA4, 0x10, .started, 0x06, [.repStart]) := by decide

/-- EG-4. -/
theorem test_e_send_addr : launchedOf (exec .eSendAddr (held .started .start 0xB4)) = some (0x04, .send) := by decide

/-- EG-7: the completion of SLA+R with NACK. -/
theorem test_e_send_addr_nacked :
    engineOf (step (turn (.engine (.bit .nack)) (flying .send false false (held .started .start 0xB5)))) =
      some (0x84, 0x48, .mrEnd, 0xB5, [.addr 0xB5 .nack]) := by decide

/-- EG-8. -/
theorem test_e_send_data : launchedOf (exec .eSendData (held .mt .mtSlaAck 0x06)) = some (0x04, .send) := by decide

/-- EG-9: the completion with NACK. -/
theorem test_e_send_data_nacked :
    engineOf (step (turn (.engine (.bit .nack)) (flying .send false false (held .mt .mtSlaAck 0x06)))) =
      some (0x84, 0x30, .mt, 0x06, [.tx 0x06 .nack]) := by decide

/-- EG-10: the completion. -/
theorem test_e_recv_ack :
    engineOf (step (turn (.engine (.byte 0x3C)) (flying .recvAck true false (held .mr .mrSlaAck 0xB5)))) =
      some (0xC4, 0x50, .mr, 0x3C, [.rx 0x3C .ack]) := by decide

/-- EG-21. -/
theorem test_e_recv_ack_in_mt : faultOf (exec .eRecvAck (held .mt .mtSlaAck 0xB4)) = some (true, 0x4) := by decide

/-- EG-11: the completion. -/
theorem test_e_recv_nack :
    engineOf (step (turn (.engine (.byte 0xAB)) (flying .recvNack false false (held .mr .mrDataAck 0x3A)))) =
      some (0x84, 0x58, .mrEnd, 0xAB, [.rx 0xAB .nack]) := by decide

/-- EG-20. -/
theorem test_e_recv_nack_at_end :
    faultOf (exec .eRecvNack (held .mrEnd .mrDataNack 0xAB)) = some (true, 0x4) := by decide

/-- EG-13. -/
theorem test_e_stop : launchedOf (exec .eStop (held .mrEnd .mrDataNack 0xAB)) = some (0x14, .stop) := by decide

/-- EG-14: the completion in P_IDLE puts nothing on the wire. -/
theorem test_e_stop_in_idle :
    engineOf (step (turn (.engine .ok) (flying .stop false false afterInit))) =
      some (0x04, 0xF8, .idle, 0xFF, []) := by decide

/-- EG-22, EG-23, EG-24. -/
theorem test_refused_writes :
    (regWrite .ctrl 0xB4 afterInit).fcode = 0x4 ∧ (regWrite .ctrl 0x45 afterInit).fcode = 0x4 ∧
    (regWrite .data 0x11 (flying .send false false afterInit)).fcode = 0x4 := by decide

/-- EG-25, EG-26. -/
theorem test_write_collision :
    regRead .ctrl (regWrite .data 0x12 afterInit) = 0x4C ∧
    regRead .data (regWrite .data 0x12 afterInit) = 0xFF ∧
    regRead .data (regWrite .data 0x12 (held .mt .mtSlaAck 0xB4)) = 0x12 := by decide

/-- EG-27: with ADMIT_ABNORMAL false there is no abnormal completion. -/
theorem test_no_abnormal :
    (nextOf (step (turn (.engine (.abnormal .busError)) (under { Config.default with admitAbnormal := false }
      (flying .start false true afterInit))))).map (·.inflight) = some .start := by decide

/-- EN-10, EN-11, EN-12: the notation. -/
theorem test_notation_pseudo :
    assembleText ["START_WAIT_W 0x5A".toList] = some [.cmd 0x03B4] ∧
    assembleText ["START_R 0x5A ; read".toList] = some [.cmd 0x02B5] ∧
    assembleText ["START_W 0x80".toList] = none := by decide

/-- PR3's branch and label lines. -/
theorem test_notation_branch :
    assembleText ["IF RESULT == 1 GOTO gone".toList, "RETURN 1".toList, "gone:   STOP".toList, "RETURN 0".toList] =
      some [.ifResult 0x01 2, .ret (.num 1), .cmd 0x0700, .ret (.num 0)] := by decide

/-- 30_encoding.md R92: a command line's encoding as four hex digits. -/
theorem test_cmd_hex : cmdHex 0x03B5 = ['0', '3', 'B', '5'] := by decide

/-- CV-3, CV-4, CV-8, CV-11. -/
theorem test_conversion :
    convert 0x3C 0x3A = 2501 ∧ convert 0x59 0x35 = -1 ∧ convert 0xFF 0x7F = -27317 ∧
    convert 0x00 0x96 = -16051 := by decide

/-- WX12. -/
theorem test_scl : sclHz Config.default 72 0 = 100000 := by decide

/-! ### Witnesses -/

theorem witness_DecodeOfEncode : Instr.wellFormedIn .mt .eSendData = true := by decide
theorem witness_EncodeOfDecode : decode .mr (.ctrl 0x84) = .ok .eRecvNack := by rfl
theorem witness_ReservedWordsAreRejected :
    (8 ≤ (0x08 : Byte).toNat) ∧ (8 ≤ (0xFF : Byte).toNat) ∧ ((0x01 : Byte) ≠ 0x00) := by decide
theorem witness_ResetEventRestoresTheBlock :
    configOk { State.reset with turns := [.reset], fault := true }.cfg = true ∧
    { State.reset with turns := [.reset], fault := true }.turns = .reset :: [] := by decide

/-- A command stands on the port with the strobe up. -/
def issuing (w : CmdWord) : State := drivePort w State.reset

theorem witness_StepRunsTheIssuedCommand :
    configOk (issuing 0x0100).cfg = true ∧ (issuing 0x0100).fault = false ∧ noResetNext (issuing 0x0100) = true ∧
    (issuing 0x0100).cmdIssue = true ∧
    decodeCmd (cmdOf (issuing 0x0100).cmdOp (issuing 0x0100).cmdArg) = .ok .init := ⟨rfl, rfl, rfl, rfl, rfl⟩

/-- SEQ at the last label of INIT, with its turn to come. -/
def configuring : State := turn .seq (atLabelOf .init (.init .i6) 0x00 State.reset)

theorem witness_StepRunsTheEngineCommand :
    configOk configuring.cfg = true ∧ configuring.fault = false ∧ configuring.cmdIssue = false ∧
    configuring.op ≠ .none ∧ configuring.turns = .seq :: [] ∧
    ctrlWriteAt configuring.mpc = some (0x44, fin 0x00) ∧ decodeCtrl configuring.ph 0x44 = .ok .eConfig :=
  ⟨rfl, rfl, rfl, by decide, rfl, rfl, rfl⟩

theorem witness_PlacedWordsRunNext :
    configOk State.reset.cfg = true ∧ State.reset.fault = false ∧ noResetNext State.reset = true ∧
    decodeTableWord 16 0x0700 = some .stop ∧ decodeTableWord 8 0x94 = some .eStop := by decide
theorem witness_InitIsIssuedInEveryState : State.reset.fault = false ∧ State.reset.busy = false := by decide
theorem witness_StartAndStopAreIssuedWhenEnabled :
    afterInit.fault = false ∧ afterInit.busy = false ∧ afterInit.ctrl.en = true := by decide
theorem witness_ByteTransfersAreIssuedInTheirPhase :
    (held .mt .mtSlaAck 0xB4).fault = false ∧ (held .mt .mtSlaAck 0xB4).busy = false ∧
    (held .mt .mtSlaAck 0xB4).ctrl.en = true ∧ (held .mt .mtSlaAck 0xB4).ph = .mt ∧
    (held .mr .mrSlaAck 0xB5).fault = false ∧ (held .mr .mrSlaAck 0xB5).busy = false ∧
    (held .mr .mrSlaAck 0xB5).ctrl.en = true ∧ (held .mr .mrSlaAck 0xB5).ph = .mr := by decide
theorem witness_IllegalIssueFaults :
    configuring.busy = true ∧ configuring.fault = false ∧ Instr.isCommand .stop = true ∧
    State.reset.busy = false ∧ State.reset.ctrl.en = false ∧
    (held .mr .mrSlaAck 0xB5).ctrl.en = true ∧ (held .mr .mrSlaAck 0xB5).ph ≠ .mt ∧
    (held .mt .mtSlaAck 0xB4).ctrl.en = true ∧ (held .mt .mtSlaAck 0xB4).ph ≠ .mr := by decide
theorem witness_ReservedIssueFaults :
    configOk (issuing 0x0501).cfg = true ∧ (issuing 0x0501).fault = false ∧ noResetNext (issuing 0x0501) = true ∧
    (issuing 0x0501).cmdIssue = true ∧
    decodeCmd (cmdOf (issuing 0x0501).cmdOp (issuing 0x0501).cmdArg) = .error .reservedArg :=
  ⟨rfl, rfl, rfl, rfl, rfl⟩
theorem witness_FaultedMachineIsQuiescent :
    (State.reset.raise .busy).fault = true ∧ configOk (State.reset.raise .busy).cfg = true ∧
    noResetNext (State.reset.raise .busy) = true := by decide
theorem witness_RegisterWritesAtRest :
    State.reset.inflight = .none ∧ State.reset.ctrl.int = false ∧ (held .mt .mtSlaAck 0xB4).inflight = .none ∧
    (held .mt .mtSlaAck 0xB4).ctrl.int = true := by decide
theorem witness_WriteInFlightFaults : (flying .send false false afterInit).inflight ≠ .none := by decide
theorem witness_UnusedCtrlValueFaults :
    (0x00 : Byte) ∉ [0x44, 0xA4, 0x84, 0xC4, (0x94 : Byte)] ∧ (0xFF : Byte) ∉ [0x44, 0xA4, 0x84, 0xC4, (0x94 : Byte)]
    := by decide
theorem witness_LaunchTable :
    ∀ ph, (held ph .start 0x00).inflight = .none ∧ (held ph .start 0x00).ph = ph := fun _ => ⟨rfl, rfl⟩
theorem witness_EngineCommandIsItsCtrlWrite :
    afterInit.fault = false ∧ decodeCtrl afterInit.ph 0xA4 = .ok .eStart := ⟨rfl, rfl⟩
theorem witness_RegistersAreTheDataSpace :
    regAddrDistinct State.reset.cfg.regAddr = true ∧ State.reset.cfg.regAddr.puSda ≠ State.reset.cfg.regAddr.puScl ∧
    (∀ r, 0 ≠ regAddrOf State.reset.cfg.regAddr r) ∧
    (∀ p, PortBit.mk 0 0 ≠ portBitOf State.reset.cfg.regAddr p) :=
  ⟨by decide, by decide, fun r => by cases r <;> decide, fun p => by cases p <;> decide⟩
theorem witness_PhaseFreeEngineCommands : State.reset.fault = false ∧ State.reset.inflight = .none := by decide
theorem witness_ByteTransferLaunches :
    ∀ ph, (held ph .start 0x00).fault = false ∧ (held ph .start 0x00).inflight = .none ∧ (held ph .start 0x00).ph = ph :=
  fun _ => ⟨rfl, rfl, rfl⟩
theorem witness_EngineCommandFaults :
    (flying .send false false afterInit).fault = false ∧ Instr.isCommand .eStop = false ∧
    (flying .send false false afterInit).inflight ≠ .none ∧ Instr.isCommand .eRecvAck = false ∧
    (held .mt .mtSlaAck 0xB4).ph ≠ .mr ∧ Instr.isCommand .eSendAddr = false ∧
    (held .mrEnd .mrSlaNack 0xB5).ph ≠ .started ∧ (held .mrEnd .mrSlaNack 0xB5).ph ≠ .mt := by decide

/-- What the completion statements assume of a state: its own turn, with the phase in flight. -/
def completing (f : Inflight) (o : Answer) (s : State) : State := turn (.engine o) (flying f false false s)

theorem witness_StartCompletion :
    (∀ s ∈ [afterInit, held .mt .mtSlaAck 0xB4], ∀ o ∈ [Answer.ok, .abnormal .busError],
      configOk (completing .start o s).cfg = true ∧ (completing .start o s).fault = false ∧
      (completing .start o s).cmdIssue = false ∧ (completing .start o s).inflight = .start ∧
      (completing .start o s).turns = .engine o :: [] ∧ (completing .start o s).cfg.admitAbnormal = true) ∧
    (completing .start .ok afterInit).ph = .idle ∧ (completing .start .ok (held .mt .mtSlaAck 0xB4)).ph ≠ .idle := by
  decide
theorem witness_AbnormalCompletion :
    ∀ b, ∀ s ∈ [completing .send (.abnormal .arbLost) (under { Config.default with admitAbnormal := b } afterInit)],
      configOk s.cfg = true ∧ s.fault = false ∧ s.cmdIssue = false ∧ s.inflight ≠ .none ∧ s.inflight ≠ .stop ∧
      s.turns = .engine (.abnormal .arbLost) :: [] ∧ s.cfg.admitAbnormal = b := by decide
theorem witness_SendCompletion :
    (∀ s ∈ [held .started .start 0xB4, held .started .start 0xB5, held .mt .mtSlaAck 0x06],
      configOk (completing .send (.bit .ack) s).cfg = true ∧ (completing .send (.bit .ack) s).fault = false ∧
      (completing .send (.bit .ack) s).cmdIssue = false ∧ (completing .send (.bit .ack) s).inflight = .send ∧
      (completing .send (.bit .ack) s).turns = .engine (.bit .ack) :: []) ∧
    (completing .send (.bit .ack) (held .started .start 0xB4)).ph = .started ∧
    (completing .send (.bit .ack) (held .started .start 0xB4)).data.getLsbD 0 = false ∧
    (completing .send (.bit .ack) (held .started .start 0xB5)).data.getLsbD 0 = true ∧
    (completing .send (.bit .ack) (held .mt .mtSlaAck 0x06)).ph = .mt := by decide
theorem witness_ReceiveCompletion :
    ∀ f ∈ [Inflight.recvAck, .recvNack], ∀ s ∈ [completing f (.byte 0x00) (held .mr .mrSlaAck 0xB5)],
      configOk s.cfg = true ∧ s.fault = false ∧ s.cmdIssue = false ∧ s.turns = .engine (.byte 0x00) :: [] ∧
      s.inflight = f := by decide
theorem witness_StopCompletion :
    ∀ s ∈ [completing .stop .ok afterInit, completing .stop .ok (held .mt .mtSlaNack 0xB4)],
      configOk s.cfg = true ∧ s.fault = false ∧ s.cmdIssue = false ∧ s.inflight = .stop ∧
      s.turns = .engine .ok :: [] := by decide

/-- SEQ at a poll, with its turn to come. -/
def polling : State := turn .seq (atLabelOf .start (.start .s1) 0xB4 (flying .start false true afterInit))

theorem witness_AgentsWithoutAStepHold :
    configOk polling.cfg = true ∧ polling.fault = false ∧ polling.cmdIssue = false ∧
    (turn (.engine .ok) afterInit).turns = .engine .ok :: [] ∧ (turn (.engine .ok) afterInit).inflight = .none ∧
    (turn .seq afterInit).turns = .seq :: [] ∧ (turn .seq afterInit).op = .none ∧
    polling.turns = .seq :: [] ∧ polling.op ≠ .none ∧ polling.mpc.owner = polling.op ∧ pollAt polling = some false ∧
    pollAt (turn .seq (atLabelOf .start (.start .s1) 0xB4 (held .started .start 0x00))) = some true := by decide
theorem witness_StartPhaseCheck :
    (completing .start .ok afterInit).fault = false ∧ (completing .start .ok afterInit).inflight = .start ∧
    (nextOf (step (completing .start .ok afterInit))).map (·.inflight) = some .none ∧
    (nextOf (step (completing .start (.abnormal .busError) afterInit))).map
      (fun t => (t.inflight, startFail (codeOf (regRead .status t)))) = some (.none, true) := by decide
theorem witness_StartPhaseCheck_fails :
    AtStep (turn .seq (atLabelOf .start (.start .s2) 0xB4 (held .idle .busError 0xFF))) .start (.start .s2) ∧
    startFail (codeOf (regRead .status (held .idle .busError 0xFF))) = true :=
  ⟨⟨by decide, by decide, by decide, by decide, by decide, by decide, by decide⟩, by decide⟩
theorem witness_AddressCheckForms :
    AtStep (turn .seq (atLabelOf .start (.start .s6) 0xB4 (held .mt .mtSlaAck 0xB4))) .start (.start .s6) :=
  ⟨by decide, by decide, by decide, by decide, by decide, by decide, by decide⟩
theorem witness_RetryStep_never_fails :
    afterInit.cfg.waitBound = none ∧
    (nextOf (step (turn .seq (atLabelOf .startWait (.startWait .w6) 0xB4 (held .mt .mtSlaAck 0xB4))))).map (·.op) =
      some .none := by decide
theorem witness_RetryStep :
    State.reset.cfg.waitBound = none ∧
    (under { Config.default with waitBound := some 2 } State.reset).cfg.waitBound = some 2 ∧
    State.reset.attempts + 1 < 2 ∧ 2 ≤ { State.reset with attempts := 1 }.attempts + 1 := by decide

theorem witness_Ready : Ready State.reset :=
  ⟨by decide, by decide, by decide, by decide, by decide, by decide⟩
theorem witness_InitRuns : Ready State.reset ∧ State.reset.cfg.initStopWait = false := ⟨witness_Ready, by decide⟩

/-- After INIT under INIT_STOP_WAIT. -/
def stopping : State := under { Config.default with initStopWait := true } (held .mt .mtSlaAck 0xB4)

theorem witness_InitWithStopRuns : Ready stopping ∧ stopping.cfg.initStopWait = true :=
  ⟨⟨by decide, by decide, by decide, by decide, by decide, by decide⟩, by decide⟩

/-- The premises of the statement about two INITs: reset meets them, and each INIT of five SEQ turns answers a state. -/
theorem witness_InitIsIdempotent :
    Ready State.reset ∧ ∃ t u,
      runSteps 6 (drivePort 0x0100 { State.reset with turns := [.seq, .seq, .seq, .seq, .seq] }) = .next t ∧
      runSteps 6 (drivePort 0x0100 { t with turns := [.seq, .seq, .seq, .seq, .seq] }) = .next u :=
  ⟨witness_Ready, _, _, rfl, rfl⟩
/-- The least and the greatest clock that is accepted, and the clocks beside them that are refused. -/
theorem witness_InitRuns_configurations :
    (∀ f ∈ [1600000, 52799999], 16 ≤ { Config.default with fCpu := f }.fCpu / 100000 ∧
      { Config.default with fCpu := f }.fCpu / 100000 < 16 + 512) ∧
    (∀ n, { Config.default with waitBound := some 1 }.waitBound = some n → 1 ≤ n) ∧
    (under { Config.default with fCpu := 1499999 } State.reset).cfg.fCpu / 100000 + 2 ≤ 16 ∧
    16 + 512 ≤ (under { Config.default with fCpu := 52800000 } State.reset).cfg.fCpu / 100000 :=
  ⟨by decide, fun n h => by cases h; decide, by decide, by decide⟩

/-- The same premises with INIT_STOP_WAIT, from the middle of a transaction. -/
theorem witness_InitIsIdempotent_with_stop :
    Ready stopping ∧ stopping.cfg.initStopWait = true ∧ ∃ t u,
      runSteps 9 (drivePort 0x0100 { stopping with
        turns := [.seq, .seq, .seq, .seq, .seq, .engine .ok, .seq, .seq] }) = .next t ∧
      runSteps 9 (drivePort 0x0100 { t with
        turns := [.seq, .seq, .seq, .seq, .seq, .engine .ok, .seq, .seq] }) = .next u :=
  ⟨witness_InitWithStopRuns.1, rfl, _, _, rfl, rfl⟩
theorem witness_StartRuns : Ready afterInit ∧ afterInit.ctrl.en = true :=
  ⟨⟨by decide, by decide, by decide, by decide, by decide, by decide⟩, by decide⟩
theorem witness_StartFailsAfterAbnormal :
    Ready afterInit ∧ afterInit.ctrl.en = true ∧ afterInit.cfg.admitAbnormal = true :=
  ⟨witness_StartRuns.1, witness_StartRuns.2, by decide⟩

/-- SEQ at START_WAIT's first label. -/
def attempting : State := atLabelOf .startWait (.startWait .w0) 0xB4 afterInit

theorem witness_StartWaitAttemptSucceeds : AtStep attempting .startWait (.startWait .w0) :=
  ⟨by decide, by decide, by decide, by decide, by decide, by decide, by decide⟩
theorem witness_StartWaitNackedAttemptRetries :
    AtStep attempting .startWait (.startWait .w0) ∧ attempting.cfg.nackSet = .addressNacks :=
  ⟨witness_StartWaitAttemptSucceeds, by decide⟩

/-- The same under the alternative NACK set, with an address byte. -/
def attemptingUpstream (a : Byte) : State :=
  under { Config.default with nackSet := .upstream } (atLabelOf .startWait (.startWait .w0) a afterInit)

theorem witness_StartWaitNackedAttempt_upstream :
    AtStep (attemptingUpstream 0xB4) .startWait (.startWait .w0) ∧ (attemptingUpstream 0xB4).arg.getLsbD 0 = false ∧
    AtStep (attemptingUpstream 0xB5) .startWait (.startWait .w0) ∧ (attemptingUpstream 0xB5).cfg.nackSet = .upstream ∧
    (attemptingUpstream 0xB5).arg.getLsbD 0 = true :=
  ⟨⟨by decide, by decide, by decide, by decide, by decide, by decide, by decide⟩, by decide,
   ⟨by decide, by decide, by decide, by decide, by decide, by decide, by decide⟩, by decide, by decide⟩
theorem witness_StartWaitAfterAbnormal :
    AtStep attempting .startWait (.startWait .w0) ∧ attempting.cfg.admitAbnormal = true :=
  ⟨witness_StartWaitAttemptSucceeds, by decide⟩
theorem witness_held_ready (ph : Phase) (c : Code) (d : Byte) :
    Ready (held ph c d) ∧ (held ph c d).ctrl.en = true ∧ (held ph c d).ctrl.int = true :=
  ⟨⟨(by decide : configOk Config.default = true), rfl, rfl, rfl, rfl, rfl⟩, rfl, rfl⟩
theorem witness_WriteRuns :
    Ready (held .mt .mtSlaAck 0xB4) ∧ (held .mt .mtSlaAck 0xB4).ctrl.en = true ∧
    (held .mt .mtSlaAck 0xB4).ctrl.int = true ∧ (held .mt .mtSlaAck 0xB4).ph = .mt ∧
    ∀ o ∈ [Answer.bit .ack, .bit .nack, .abnormal .arbLost], admitted Config.default .send o = true :=
  ⟨(witness_held_ready _ _ _).1, rfl, rfl, rfl, by decide⟩
theorem witness_ReadsRun :
    Ready (held .mr .mrSlaAck 0xB5) ∧ (held .mr .mrSlaAck 0xB5).ctrl.en = true ∧
    (held .mr .mrSlaAck 0xB5).ph = .mr ∧
    ∀ o ∈ [Answer.byte 0x3C, .abnormal .busError],
      admitted Config.default .recvAck o = true ∧ admitted Config.default .recvNack o = true :=
  ⟨(witness_held_ready _ _ _).1, rfl, rfl, by decide⟩
theorem witness_StopRuns : Ready (held .mrEnd .mrDataNack 0xAB) ∧ (held .mrEnd .mrDataNack 0xAB).ctrl.en = true :=
  ⟨(witness_held_ready _ _ _).1, rfl⟩

/-- The invariant holds where SEQ polls with a START in flight, and the poll's turn answers a state. -/
theorem witness_EngineInvariantIsKept : Inv polling ∧ ∃ t, step polling = .next t :=
  ⟨fun _ => ⟨⟨by decide, by decide, by decide, by decide, by decide, by decide, by decide, by decide, by decide,
      by decide⟩,
    ⟨by decide, by decide, by decide, by decide, by decide⟩⟩, _, rfl⟩
theorem witness_OnlyIssueFaults :
    Inv polling ∧ polling.fault = false ∧ polling.cmdIssue = false ∧ ∃ t, step polling = .next t :=
  ⟨witness_EngineInvariantIsKept.1, rfl, rfl, _, rfl⟩
theorem witness_OneAgentMovesWhileBusy : Inv polling ∧ polling.fault = false ∧ polling.busy = true :=
  ⟨witness_EngineInvariantIsKept.1, rfl, rfl⟩
theorem witness_OnlyResetClearsFault :
    (∃ t, step { State.reset.raise .busy with turns := [.reset] } = .next t) ∧
    { State.reset.raise .busy with turns := [.reset] }.fault = true ∧
    faultRecorded { State.reset.raise .busy with turns := [.reset] } = true := ⟨⟨_, rfl⟩, rfl, by decide⟩
theorem witness_OnlyCompletionsMoveTheBus :
    (∃ t, step (completing .start .ok afterInit) = .next t) ∧
    noResetNext (completing .start .ok afterInit) = true := ⟨⟨_, rfl⟩, rfl⟩
theorem witness_ResultIsWrittenByFinishAlone :
    noResetNext (turn .seq (atLabelOf .readAck (.readAck .a2) 0x00 (held .mr .mrDataAck 0x3C))) = true ∧
    ∃ t, step (turn .seq (atLabelOf .readAck (.readAck .a2) 0x00 (held .mr .mrDataAck 0x3C))) = .next t ∧
      t.result ≠ (turn .seq (atLabelOf .readAck (.readAck .a2) 0x00 (held .mr .mrDataAck 0x3C))).result :=
  ⟨rfl, _, rfl, by decide⟩
theorem witness_HostReachesOnlyThePort :
    configOk (turn .host afterInit).cfg = true ∧ (turn .host afterInit).fault = false ∧
    (turn .host afterInit).cmdIssue = false ∧ (turn .host afterInit).turns = .host :: [] := by decide
theorem witness_ParametersAndVariablesKeepTheirForm :
    (∃ t, step polling = .next t) ∧ cellsWf polling.hostVars = true := ⟨⟨_, rfl⟩, by decide⟩

/-- HOST at a statement, ready to take it. -/
def atStatement (st : HostStmt) : State := { afterInit with script := [st], result := 0x01 }

theorem witness_HostDirectives :
    (∀ st ∈ [HostStmt.cmd 0x0700, .save 3, .ifResult 0x01 0, .ret (.num 1), .ret (.conv 0 1)],
      cellsWf (atStatement st).hostVars = true ∧ hostReady (atStatement st) = true ∧
      (atStatement st).script[(atStatement st).hostPc]? = some st) ∧
    polling.hostWaits = true ∧ polling.busy = true := by decide

/-- HOST at a RETURN of the two bytes read, after these statements (the latest first), the last READ failed or not. -/
def atReturn (taken : List HostStmt) (failed : Bool) : State :=
  { atStatement (.ret (.conv 0 1)) with
    hostVars := [(0, 0x3C), (1, 0x3A)], hostTaken := taken, readFailed := failed }

/-- The statements of 42_host_transaction.md R164 up to its RETURN, the latest first, ambient. -/
def getTempTaken : List HostStmt :=
  [.cmd 0x0700, .cmd 0x0600, .save 1, .cmd 0x0500, .save 0, .cmd 0x0500, .ifResult 0x01 13, .cmd 0x03B5, .cmd 0x0406,
   .ifResult 0x01 13, .cmd 0x03B4, .cmd 0x0100]

/-- 42_host_transaction.md R172: GET_TEMP returns no temperature after an abnormal READ_NACK; 95_test_vectors.md PR1: 2501
otherwise. -/
theorem test_get_temp_return :
    (hostStep (atReturn getTempTaken true)).hostRet = none ∧ (hostStep (atReturn getTempTaken true)).hostHung = true ∧
    (hostStep (atReturn getTempTaken false)).hostRet = some 2501 := by decide

/-- 30_encoding.md R92: a RETURN that is not GET_TEMP's ends the program with its value, whatever happened before, be it a
failed READ or a START that failed after one. -/
theorem test_other_return :
    (hostStep (atReturn (.cmd 0x02B4 :: getTempTaken) true)).hostRet = some 2501 ∧
    (hostStep (atReturn [.cmd 0x0600] true)).hostRet = some 2501 := by decide

theorem witness_HostDirectives_failedGetTemp :
    cellsWf (atReturn getTempTaken true).hostVars = true ∧ hostReady (atReturn getTempTaken true) = true ∧
    (atReturn getTempTaken true).script[(atReturn getTempTaken true).hostPc]? = some (.ret (.conv 0 1)) ∧
    (atReturn getTempTaken true).readFailed = true ∧ (0 : Nat) ≠ 1 ∧
    ∃ c t t' rest, (c = 0x0406 ∨ c = 0x0407) ∧
      (atReturn getTempTaken true).hostTaken = [HostStmt.cmd 0x0700, .cmd 0x0600, .save 1, .cmd 0x0500, .save 0,
        .cmd 0x0500, .ifResult 0x01 t', .cmd 0x03B5, .cmd c, .ifResult 0x01 t, .cmd 0x03B4, .cmd 0x0100] ++ rest :=
  ⟨by decide, by decide, by decide, rfl, by decide, 0x0406, 13, 13, [], .inl rfl, rfl⟩
theorem witness_PseudoInstructionsAssemble : 0x7F < 0x80 ∧ assemble [.startW 0x80] = none := by decide
theorem witness_ConversionMonotoneRange :
    (0x75 : Byte).toNat * 256 + (0x58 : Byte).toNat < (0x75 : Byte).toNat * 256 + (0x59 : Byte).toNat ∧
    (0x75 : Byte).toNat * 256 + (0x59 : Byte).toNat ≤ 0x7559 := by decide
theorem witness_ConversionByteOrder : (0x00 : Byte) ≠ 0x96 := by decide

end Sys2Proof.Tests
end

section
/-! SUPPORT. The data space: where each register and each pull-up bit stands (20_memory.md R61, R64). -/

namespace Sys2Proof.Machine

variable {m : RegAddr}

/-! ### The engine registers' locations -/

theorem regAddrOf_injective (h : regAddrDistinct m = true) : Function.Injective (regAddrOf m) := by
  have hd : [m.ctrl, m.status, m.bitrate, m.data].Nodup := of_decide_eq_true h
  intro r r' e
  cases r <;> cases r' <;> simp_all [regAddrOf]

/-- An address that locates a register is the register's own. -/
theorem regAddrOf_of_locate {a : Nat} {r : Reg} (h : locate m a = some r) : a = regAddrOf m r := by
  unfold locate at h
  split_ifs at h <;> cases h <;> assumption

theorem locate_eq_none_iff (a : Nat) : locate m a = none ↔ ∀ r, a ≠ regAddrOf m r := by
  constructor
  · intro h r
    unfold locate at h
    split_ifs at h with hc hs hb hd
    cases r
    exacts [hc, hs, hb, hd]
  · exact fun h => Option.eq_none_iff_forall_ne_some.mpr fun r hr => h r (regAddrOf_of_locate hr)

/-- Distinct addresses each locate their own register. -/
theorem locate_regAddrOf (h : regAddrDistinct m = true) (r : Reg) : locate m (regAddrOf m r) = some r := by
  cases hl : locate m (regAddrOf m r) with
  | none => exact absurd rfl ((locate_eq_none_iff _).mp hl r)
  | some r' => rw [regAddrOf_injective h (regAddrOf_of_locate hl)]

/-! ### The pull-up bits' places -/

theorem portBitOf_of_locateBit {x : PortBit} {p : PullUp} (h : locateBit m x = some p) : x = portBitOf m p := by
  unfold locateBit at h
  split_ifs at h <;> cases h <;> assumption

theorem locateBit_eq_none {x : PortBit} (h : ∀ p, x ≠ portBitOf m p) : locateBit m x = none :=
  Option.eq_none_iff_forall_ne_some.mpr fun p hp => h p (portBitOf_of_locateBit hp)

/-- Distinct places each locate their own pull-up. -/
theorem locateBit_portBitOf (h : m.puSda ≠ m.puScl) (p : PullUp) : locateBit m (portBitOf m p) = some p := by
  cases p with
  | sda => simp [locateBit, portBitOf]
  | scl => simp [locateBit, portBitOf, h.symm]

/-- Settles O22: each access locates its own register or bit, and an access anywhere else locates none. -/
theorem registersAreTheDataSpace : Obligations.RegistersAreTheDataSpace := by
  intro s v b hr hp
  refine ⟨fun r => ⟨?_, ?_⟩, fun p => ?_, fun a ha => ⟨?_, ?_⟩, fun x hx => ?_⟩
  · rw [memRead, locate_regAddrOf hr, Option.map_some]
  · rw [memWrite, locate_regAddrOf hr, Option.map_some]
  · rw [memWriteBit, locateBit_portBitOf hp, Option.map_some]
  · rw [memRead, (locate_eq_none_iff a).mpr ha, Option.map_none]
  · rw [memWrite, (locate_eq_none_iff a).mpr ha, Option.map_none]
  · rw [memWriteBit, locateBit_eq_none hx, Option.map_none]

end Sys2Proof.Machine
end

section
/-! SUPPORT. INIT: the divisor and the configurations that are accepted (00_scope.md R8), SEQ's steps at INIT's labels
and the runs they make (41_sequencer.md R131, R137, R150). -/

namespace Sys2Proof.Machine

variable {s : State} {ts : List Turn}

/-! ### The divisor -/

theorem divisor_eq (cfg : Config) : divisor cfg = (((cfg.fCpu / 100000 : Nat) : Int) - 16) / 2 := rfl

theorem configOk_iff (cfg : Config) :
    configOk cfg = true ↔ 0 ≤ divisor cfg ∧ divisor cfg ≤ 255 ∧ cfg.waitBound ≠ some 0 := by
  simp [configOk, and_assoc]

/-- In an accepted configuration the byte INIT writes to BITRATE is DIV. -/
theorem divisorByte_toNat {cfg : Config} (h : configOk cfg = true) :
    ((divisorByte cfg).toNat : Int) = divisor cfg := by
  obtain ⟨hlo, hhi, -⟩ := (configOk_iff cfg).mp h
  rw [divisorByte, BitVec.toNat_ofInt]
  omega

theorem configOk_of_clock {cfg : Config} (hlo : 16 ≤ cfg.fCpu / 100000) (hhi : cfg.fCpu / 100000 < 16 + 512)
    (hb : ∀ n, cfg.waitBound = some n → 1 ≤ n) : configOk cfg = true := by
  rw [configOk_iff, divisor_eq]
  exact ⟨by omega, by omega, fun h => absurd (hb 0 h) (by decide)⟩

theorem configOk_eq_false_of_clock {cfg : Config}
    (h : cfg.fCpu / 100000 + 2 ≤ 16 ∨ 16 + 512 ≤ cfg.fCpu / 100000) : configOk cfg = false := by
  rw [Bool.eq_false_iff, Ne, configOk_iff, divisor_eq]
  omega

/-- A refused configuration has no step, whatever the turn (log entry 4). -/
theorem step_refused (h : configOk s.cfg = false) : step s = .refused .configuration := by
  simp [step, advance, h]

/-! ### The issue and SEQ's turn -/

theorem issue_begin {op : Op} (a : Byte) (hb : s.busy = false) (hl : legalFault op s = none) :
    issue op a s = s.begin op a := by
  simp [issue, hb, hl]

/-- SEQ's turn at a label of a running operation is the micro-step there. -/
theorem AtStep.step_eq {op : Op} {l : Label} (h : AtStep s op l) (hop : op ≠ .none) (ht : s.turns = .seq :: ts) :
    step s = microStep { s with turns := ts } := by
  rw [step_seq h.config h.noFault h.noStrobe ht, seqStep, if_neg]
  exact fun hn => hop (h.running.symm.trans hn)

/-! ### INIT's steps -/

theorem AtStep.step_init {l : InitLabel} (h : AtStep s .init (.init l)) (ht : s.turns = .seq :: ts) :
    step s = microInit l { s with turns := ts } := by
  rw [h.step_eq nofun ht, microStep]
  simp only [h.label]

theorem step_init_i0 (h : AtStep s .init (.init .i0)) (ht : s.turns = .seq :: ts) :
    step s = .next { s with turns := ts, puSda := true, mpc := .init .i1 } :=
  (h.step_init ht).trans (whenLive_live h.noFault)

theorem step_init_i1 (h : AtStep s .init (.init .i1)) (ht : s.turns = .seq :: ts) :
    step s = .next { s with turns := ts, puScl := true, mpc := .init .i2 } :=
  (h.step_init ht).trans (whenLive_live h.noFault)

theorem step_init_i2 (h : AtStep s .init (.init .i2)) (ht : s.turns = .seq :: ts) :
    step s = .next { s with turns := ts, ps := 0, mpc := .init .i3 } :=
  (h.step_init ht).trans (writeThen_status 0x00 _ h.noFault h.quiet)

theorem step_init_i3 (h : AtStep s .init (.init .i3)) (ht : s.turns = .seq :: ts) :
    step s = .next { s with
      turns := ts, bitrate := divisorByte s.cfg, mpc := .init (if s.cfg.initStopWait then .i4 else .i6) } :=
  (h.step_init ht).trans (writeThen_bitrate (divisorByte s.cfg) _ h.noFault h.quiet)

theorem step_init_i6 (h : AtStep s .init (.init .i6)) (ht : s.turns = .seq :: ts) :
    step s = .next { s with
      turns := ts, op := .none, busy := false, result := 0x00,
      ctrl := { s.ctrl with ea := true, sta := false, sto := false, en := true, ie := false } } :=
  (h.step_init ht).trans (ctrlThen_config _ h.noFault h.quiet)

/-! ### INIT's runs -/

/-- The issue step of INIT, from the port to SEQ at I0 (41_sequencer.md R131). -/
theorem step_issue_init (h : Ready s) (hr : noResetNext s = true) :
    step (drivePort 0x0100 s) = .next { s with
      cmdOp := 0x01, cmdArg := 0x00, op := .init, arg := 0x00, attempts := 0, mpc := .init .i0, busy := true } := by
  rw [step_drivePort (i := .init) h.config h.noFault hr rfl, ← h.noStrobe]
  exact (whenLive_live h.noFault).trans (congrArg Host.Outcome.next (issue_begin 0x00 h.notBusy rfl))

/-- I0 to I3: SEQ stands at I4 when the optional STOP is configured, and else at I6 (41_sequencer.md R137). -/
theorem run_init_to_bitrate (h : AtStep s .init (.init .i0)) (ht : s.turns = .seq :: .seq :: .seq :: .seq :: ts) :
    runSteps 4 s = .next { s with
      turns := ts, puSda := true, puScl := true, ps := 0, bitrate := divisorByte s.cfg,
      mpc := .init (if s.cfg.initStopWait then .i4 else .i6) } := by
  have ⟨hc, hf, hi, ho, _, hb, hq⟩ := h
  calc runSteps 4 s
    _ = runSteps 3 _ := run_succ (step_init_i0 h ht)
    _ = runSteps 2 _ := run_succ (step_init_i1 ⟨hc, hf, hi, ho, rfl, hb, hq⟩ rfl)
    _ = runSteps 1 _ := run_succ (step_init_i2 ⟨hc, hf, hi, ho, rfl, hb, hq⟩ rfl)
    _ = .next _ := run_succ (step_init_i3 ⟨hc, hf, hi, ho, rfl, hb, hq⟩ rfl)

/-- The issue and I0 to I3, from a machine that is ready. -/
theorem run_init_issued (h : Ready s) :
    runSteps 5 (drivePort 0x0100 { s with turns := .seq :: .seq :: .seq :: .seq :: ts }) = .next { s with
      turns := ts, cmdOp := 0x01, cmdArg := 0x00, op := .init, arg := 0x00, attempts := 0, busy := true,
      puSda := true, puScl := true, ps := 0, bitrate := divisorByte s.cfg,
      mpc := .init (if s.cfg.initStopWait then .i4 else .i6) } := by
  have ⟨hc, hf, hi, hb, ho, hq⟩ := h
  calc runSteps 5 (drivePort 0x0100 { s with turns := .seq :: .seq :: .seq :: .seq :: ts })
    _ = runSteps 4 _ := run_succ (step_issue_init ⟨hc, hf, hi, hb, ho, hq⟩ rfl)
    _ = .next _ := run_init_to_bitrate ⟨hc, hf, hi, rfl, rfl, rfl, hq⟩ rfl

/-- INIT without its optional STOP, from the issue to its end. -/
theorem run_init (h : Ready s) (hs : s.cfg.initStopWait = false) :
    runSteps 6 (drivePort 0x0100 { s with turns := .seq :: .seq :: .seq :: .seq :: .seq :: ts }) = .next { s with
      turns := ts, cmdOp := 0x01, cmdArg := 0x00, arg := 0x00, attempts := 0, mpc := .init .i6,
      puSda := true, puScl := true, ps := 0, bitrate := divisorByte s.cfg,
      ctrl := { s.ctrl with ea := true, sta := false, sto := false, en := true, ie := false },
      result := 0x00 } := by
  have ⟨hc, hf, hi, hb, ho, hq⟩ := h
  have hl : (if s.cfg.initStopWait = true then InitLabel.i4 else .i6) = .i6 := by simp [hs]
  rw [run_add (j := 5) (k := 1) (run_init_issued h), hl]
  refine Eq.trans (run_succ (step_init_i6 ⟨hc, hf, hi, rfl, rfl, rfl, hq⟩ rfl)) ?_
  rw [run_zero, ho, hb]

/-- Settles O35: INIT's run label by label, and the accepted configurations by the bounds on the quotient. -/
theorem initRuns : Obligations.InitRuns :=
  ⟨fun _ _ h hs => ⟨.init .i6, divisorByte _, divisorByte_toNat h.config, run_init h hs⟩,
    fun _ hlo hhi hb => configOk_of_clock hlo hhi hb,
    fun _ h => step_refused (configOk_eq_false_of_clock h)⟩

end Sys2Proof.Machine
end

section
/-! SUPPORT. What one turn of SEQ can do, RESULT, the parameters and HOST's variables over every step (10_state.md R24,
R49), the reset values (R47), and what a step runs: the command on the port and the word placed for it (R22). -/

namespace Sys2Proof.Machine

open Host (Outcome)

variable {s t u : State} {ts : List Turn} {w : Byte} {k : State → State} {i : Instr}

/-! ### The engine commands -/

/-- The CTRL values with a meaning are the five that SEQ writes (40_engine.md R123). -/
theorem decodeCtrl_value {ph : Phase} (h : decodeCtrl ph w = .ok i) :
    w = 0x44 ∨ w = 0xA4 ∨ w = 0x84 ∨ w = 0xC4 ∨ w = 0x94 := by
  unfold decodeCtrl at h
  split at h
  case h_1 hn => exact .inl (BitVec.eq_of_toNat_eq hn)
  case h_2 hn => exact .inr (.inl (BitVec.eq_of_toNat_eq hn))
  case h_3 hn => exact .inr (.inr (.inl (BitVec.eq_of_toNat_eq hn)))
  case h_4 hn => exact .inr (.inr (.inr (.inl (BitVec.eq_of_toNat_eq hn))))
  case h_5 hn => exact .inr (.inr (.inr (.inr (BitVec.eq_of_toNat_eq hn))))
  case h_6 => cases h

/-- The CTRL decoder gives engine commands alone (20_memory.md R63). -/
theorem decodeCtrl_isCommand {ph : Phase} (h : decodeCtrl ph w = .ok i) : i.isCommand = false := by
  obtain rfl | rfl | rfl | rfl | rfl := decodeCtrl_value h
  · cases h; rfl
  · cases h; rfl
  · cases ph <;> cases h <;> rfl
  · cases ph <;> cases h; rfl
  · cases h; rfl

/-- Every engine command's meaning is one CTRL command. -/
theorem exec_engine (h : i.isCommand = false) :
    ∃ (v : Byte) (phase : State → Option Inflight), ∀ s, exec i s = whenLive s (ctrlCommand v (phase s) s) := by
  cases i <;> simp only [Instr.isCommand, Bool.true_eq_false] at h
  · exact ⟨0x44, fun _ => none, fun _ => rfl⟩
  · exact ⟨0xA4, fun _ => some .start, fun _ => rfl⟩
  · exact ⟨0x84, fun s => sendPhase s.ph, fun _ => rfl⟩
  · exact ⟨0x84, fun s => sendPhase s.ph, fun _ => rfl⟩
  · exact ⟨0xC4, fun s => recvPhase .recvAck s.ph, fun _ => rfl⟩
  · exact ⟨0x84, fun s => recvPhase .recvNack s.ph, fun _ => rfl⟩
  · exact ⟨0x94, fun _ => some .stop, fun _ => rfl⟩

theorem engineWrite_of_decode (h : decodeCtrl s.ph w = .ok i) : engineWrite w s = exec i s := by
  rw [engineWrite, h]

/-! ### What SEQ leaves unchanged -/

/-- The state but for what SEQ may write in a step that does not finish an operation: its place and its counters, the
engine registers it can reach, the phase it launches, and a fault it raises (41_sequencer.md R134). -/
def State.outsideSeq (s : State) : State :=
  { s with
    mpc := .init .i0, twst := 0x00, attempts := 0, fault := false, fcode := 0x0,
    ctrl := { int := false, ea := false, sta := false, sto := false, wc := false, en := false, ie := false },
    ps := 0, bitrate := 0x00, data := 0x00, puSda := false, puScl := false, inflight := .none }

theorem ctrlCommand_outsideSeq (v : Byte) (phase : Option Inflight) (s : State) :
    (ctrlCommand v phase s).outsideSeq = s.outsideSeq :=
  (congrArg State.outsideSeq (ctrlCommand_frame v phase s) :)

theorem regWrite_outsideSeq (r : Reg) (v : Byte) (s : State) : (regWrite r v s).outsideSeq = s.outsideSeq := by
  by_cases hn : s.inflight = .none
  · cases r with
    | ctrl =>
      rw [regWrite, writeCtrl, if_neg (not_not_intro hn)]
      split
      · exact ctrlCommand_outsideSeq v _ s
      · rfl
    | status => rw [writeStatus_rest v hn]; rfl
    | bitrate => rw [writeBitrate_rest v hn]; rfl
    | data =>
      cases hi : s.ctrl.int
      · rw [writeData_collision v hn hi]; rfl
      · rw [writeData_rest v hn hi]; rfl
  · rw [regWrite_flight r v hn]; rfl

theorem engineWrite_outsideSeq (h : engineWrite w s = .next t) : t.outsideSeq = s.outsideSeq := by
  cases hd : decodeCtrl s.ph w with
  | ok i =>
    obtain ⟨v, phase, he⟩ := exec_engine (decodeCtrl_isCommand hd)
    rw [engineWrite_of_decode hd, he, whenLive_next] at h
    rw [h.2, ctrlCommand_outsideSeq]
  | error e =>
    rw [engineWrite, hd] at h
    rw [(whenLive_next.mp h).2, regWrite_outsideSeq]

/-! ### What a step of SEQ can do -/

/-- A step of SEQ from `s` to `t` writes within SEQ's reach, and may then finish the operation
(41_sequencer.md R134, R135). -/
def SeqEffect (s t : State) : Prop :=
  ∃ u : State, u.outsideSeq = s.outsideSeq ∧ (t = u ∨ ∃ v, t = u.finish v)

theorem SeqEffect.of_outsideSeq (h : t.outsideSeq = s.outsideSeq) : SeqEffect s t := ⟨t, h, .inl rfl⟩

/-- An access comes before the step's internal work. -/
theorem SeqEffect.after (hu : u.outsideSeq = s.outsideSeq) (h : SeqEffect u t) : SeqEffect s t :=
  have ⟨x, hx, hf⟩ := h
  ⟨x, hx.trans hu, hf⟩

theorem SeqEffect.goto (l : Label) (s : State) : SeqEffect s (s.goto l) := .of_outsideSeq rfl

theorem SeqEffect.finish (v : Byte) (s : State) : SeqEffect s (s.finish v) := ⟨s, rfl, .inr ⟨v, rfl⟩⟩

theorem SeqEffect.ite {c : Prop} [Decidable c] (ht : SeqEffect s t) (hu : SeqEffect s u) :
    SeqEffect s (if c then t else u) := by
  split
  · exact ht
  · exact hu

theorem SeqEffect.retry (s : State) : SeqEffect s (retry s) := by
  obtain h | ⟨_, _, _, h⟩ := retry_cases s
  · exact h ▸ .of_outsideSeq rfl
  · exact ⟨{ s with attempts := s.attempts + 1 }, rfl, .inr ⟨0x01, h⟩⟩

/-! ### Each kind of micro-step -/

theorem whenLive_effect (h : whenLive s t = .next u) (he : SeqEffect s t) : SeqEffect s u :=
  (whenLive_next.mp h).2 ▸ he

theorem waitUntil_effect {c : Bool} (h : waitUntil c k s = .next t) (hk : ∀ s, SeqEffect s (k s)) : SeqEffect s t :=
  whenLive_effect h (.ite (hk s) (.of_outsideSeq rfl))

/-- The internal work is not done after an access that faulted. -/
theorem afterAccess_effect {r : Outcome State Fault Refusal} (h : afterAccess r k = .next t)
    (hr : ∀ u, r = .next u → u.outsideSeq = s.outsideSeq) (hk : ∀ s, SeqEffect s (k s)) : SeqEffect s t := by
  obtain ⟨u, hu, rfl⟩ := afterAccess_next.mp h
  exact .after (hr u hu) (.ite (.of_outsideSeq rfl) (hk u))

theorem ctrlThen_effect (h : ctrlThen w k s = .next t) (hk : ∀ s, SeqEffect s (k s)) : SeqEffect s t :=
  afterAccess_effect h (fun _ hu => engineWrite_outsideSeq hu) hk

theorem writeThen_effect {r : Reg} {v : Byte} (h : writeThen r v k s = .next t) (hk : ∀ s, SeqEffect s (k s)) :
    SeqEffect s t :=
  afterAccess_effect h (fun _ hu => (whenLive_next.mp hu).2 ▸ regWrite_outsideSeq r v s) hk

/-- A check is made on the status just latched (41_sequencer.md R139). -/
theorem latched_effect (h : whenLive s (k s.latchStatus) = .next t) (hk : ∀ s, SeqEffect s (k s)) : SeqEffect s t :=
  whenLive_effect h (.after rfl (hk s.latchStatus))

/-! ### Each operation's micro-program -/

theorem microInit_effect {l : InitLabel} (h : microInit l s = .next t) : SeqEffect s t := by
  cases l with
  | i0 | i1 => exact whenLive_effect h (.of_outsideSeq rfl)
  | i2 | i3 => exact writeThen_effect h (.goto _)
  | i4 => exact ctrlThen_effect h (.goto _)
  | i5 => exact waitUntil_effect h (.goto _)
  | i6 => exact ctrlThen_effect h (.finish _)

theorem microStart_effect {l : StartLabel} (h : microStart l s = .next t) : SeqEffect s t := by
  cases l with
  | s0 | s4 => exact ctrlThen_effect h (.goto _)
  | s1 | s5 => exact waitUntil_effect h (.goto _)
  | s2 => exact latched_effect h (fun s => .ite (.finish _ s) (.goto _ s))
  | s3 => exact writeThen_effect h (.goto _)
  | s6 => exact latched_effect h (fun s => .finish _ s)

theorem microStartWait_effect {l : WaitLabel} (h : microStartWait l s = .next t) : SeqEffect s t := by
  cases l with
  | w0 | w4 | w7 => exact ctrlThen_effect h (.goto _)
  | w1 | w5 => exact waitUntil_effect h (.goto _)
  | w2 => exact latched_effect h (fun s => .ite (.retry s) (.goto _ s))
  | w3 => exact writeThen_effect h (.goto _)
  | w6 => exact latched_effect h (fun s => .ite (.goto _ s) (.finish _ s))
  | w8 => exact waitUntil_effect h .retry

theorem microWrite_effect {l : WriteLabel} (h : microWrite l s = .next t) : SeqEffect s t := by
  cases l with
  | t0 => exact writeThen_effect h (.goto _)
  | t1 => exact ctrlThen_effect h (.goto _)
  | t2 => exact waitUntil_effect h (.goto _)
  | t3 => exact latched_effect h (fun s => .finish _ s)

theorem microReadAck_effect {l : ReadAckLabel} (h : microReadAck l s = .next t) : SeqEffect s t := by
  cases l with
  | a0 => exact ctrlThen_effect h (.goto _)
  | a1 => exact waitUntil_effect h (.goto _)
  | a2 => exact whenLive_effect h (.finish _ s)

theorem microReadNack_effect {l : ReadNackLabel} (h : microReadNack l s = .next t) : SeqEffect s t := by
  cases l with
  | n0 => exact ctrlThen_effect h (.goto _)
  | n1 => exact waitUntil_effect h (.goto _)
  | n2 => exact whenLive_effect h (.finish _ s)

theorem microStop_effect {l : StopLabel} (h : microStop l s = .next t) : SeqEffect s t := by
  cases l with
  | p0 => exact ctrlThen_effect h (.goto _)
  | p1 => exact waitUntil_effect h (.finish _)

theorem microStep_effect (h : microStep s = .next t) : SeqEffect s t := by
  unfold microStep at h
  split at h
  · exact microInit_effect h
  · exact microStart_effect h
  · exact microStartWait_effect h
  · exact microWrite_effect h
  · exact microReadAck_effect h
  · exact microReadNack_effect h
  · exact microStop_effect h

/-- Everything SEQ's turn can do: hold without an operation, or take a micro-step of the one in progress. -/
theorem seqStep_cases (h : seqStep s = .next t) : (s.op = .none ∧ t = s) ∨ (s.op ≠ .none ∧ SeqEffect s t) := by
  unfold seqStep at h
  split at h
  · rename_i ho
    exact .inl ⟨ho, (whenLive_next.mp h).2⟩
  · rename_i ho
    exact .inr ⟨ho, microStep_effect h⟩

/-! ### RESULT, the parameters and HOST's variables in a step of SEQ -/

/-- Only `finish` writes RESULT, and BUSY falls with it (10_state.md R24). -/
theorem SeqEffect.result (h : SeqEffect s t) : t.result = s.result ∨ (t.op = .none ∧ t.busy = false) := by
  obtain ⟨u, hu, rfl | ⟨v, rfl⟩⟩ := h
  · exact .inl (congrArg State.result hu :)
  · exact .inr ⟨finish_op u v, finish_busy u v⟩

theorem SeqEffect.cfg (h : SeqEffect s t) : t.cfg = s.cfg := by
  obtain ⟨u, hu, rfl | ⟨v, rfl⟩⟩ := h <;> exact (congrArg State.cfg hu :)

theorem SeqEffect.hostVars (h : SeqEffect s t) : t.hostVars = s.hostVars := by
  obtain ⟨u, hu, rfl | ⟨v, rfl⟩⟩ := h <;> exact (congrArg State.hostVars hu :)

theorem seqStep_keeps_cfg_hostVars (h : seqStep s = .next t) : t.cfg = s.cfg ∧ t.hostVars = s.hostVars := by
  obtain ⟨-, rfl⟩ | ⟨-, he⟩ := seqStep_cases h
  · exact ⟨rfl, rfl⟩
  · exact ⟨he.cfg, he.hostVars⟩

/-- The issue step leaves the parameters, HOST's variables and RESULT alone. -/
theorem issueStep_keeps_cfg_hostVars_result (h : issueStep s = .next t) :
    t.cfg = s.cfg ∧ t.hostVars = s.hostVars ∧ t.result = s.result := by
  obtain ⟨c, rfl⟩ | ⟨op, a, -, -, -, rfl⟩ := issueStep_cases h <;> exact ⟨rfl, rfl, rfl⟩

/-- Settles O52: of the kinds of step, only a turn of SEQ with an operation in progress can write RESULT, and it does so
by `finish`. -/
theorem resultIsWrittenByFinishAlone : Obligations.ResultIsWrittenByFinishAlone := by
  intro s t h hr hne
  obtain ⟨-, ⟨ts, ht, -⟩ | ⟨-, -, ⟨-, hs⟩ | ⟨-, ⟨-, rfl⟩ | ⟨ts, ht, hs⟩ | ⟨o, ts, -, rfl⟩ | ⟨ts, -, rfl⟩⟩⟩⟩ :=
    step_cases h
  · simp [noResetNext, ht] at hr
  · exact absurd (issueStep_keeps_cfg_hostVars_result hs).2.2 hne
  · exact absurd rfl hne
  · obtain ⟨-, rfl⟩ | ⟨ho, he⟩ := seqStep_cases hs
    · exact absurd rfl hne
    · obtain ⟨hop, hb⟩ := he.result.resolve_left hne
      exact ⟨ho, hop, hb, ts, ht⟩
  · obtain ⟨-, -, -, -, he, -⟩ := engineStep_frame o { s with turns := ts }
    exact absurd he hne
  · have he := congrArg State.result (hostStep_frame { s with turns := ts })
    exact absurd he hne

/-- Settles O54: of the kinds of step, none writes the parameters, and only HOST's turn writes its variables. -/
theorem parametersAndVariablesKeepTheirForm : Obligations.ParametersAndVariablesKeepTheirForm := by
  intro s t h
  obtain ⟨-, ⟨ts, -, rfl⟩ | ⟨-, -, ⟨-, hs⟩ | ⟨-, ⟨-, rfl⟩ | ⟨ts, -, hs⟩ | ⟨o, ts, -, rfl⟩ | ⟨ts, -, rfl⟩⟩⟩⟩ :=
    step_cases h
  · exact ⟨rfl, id⟩
  · obtain ⟨hc, hv, -⟩ := issueStep_keeps_cfg_hostVars_result hs
    exact ⟨hc, (congrArg cellsWf hv).trans⟩
  · exact ⟨rfl, id⟩
  · obtain ⟨hc, hv⟩ := seqStep_keeps_cfg_hostVars hs
    exact ⟨hc, (congrArg cellsWf hv).trans⟩
  · obtain ⟨hv, hc, -⟩ := engineStep_frame o { s with turns := ts }
    exact ⟨hc, (congrArg cellsWf hv).trans⟩
  · have hc := congrArg State.cfg (hostStep_frame { s with turns := ts })
    exact ⟨hc, hostStep_cellsWf (s := { s with turns := ts })⟩

/-! ### Reset -/

/-- Settles O5: the reset state holds each value as written, and CTRL and STATUS read as their fields' bytes. -/
theorem resetValues : Obligations.ResetValues := by
  intro cfg
  have hctrl : ctrlByte ⟨false, false, false, false, false, false, false⟩ = 0x00 := by decide
  have hstatus : statusByte .noInfo 0 = 0xF8 := by decide
  exact ⟨rfl, rfl, rfl, rfl, rfl, rfl, rfl, hctrl, hstatus, rfl, rfl, rfl, rfl, rfl, rfl, rfl, rfl, rfl⟩

/-! ### The word a step runs -/

theorem issueStep_of_decode (h : decodeCmd (portWord s) = .ok i) :
    issueStep s = exec i { s with cmdIssue := false } := by
  rw [issueStep, h]

/-- Settles O7: with the strobe up the step is the issue step, which decodes the port. -/
theorem stepRunsTheIssuedCommand : Obligations.StepRunsTheIssuedCommand := by
  intro s i hc hf hr hi hd
  rw [step_issue hc hf hr hi, issueStep_of_decode hd]

/-- At a label that writes CTRL the micro-step is that write with the label's work after it. -/
theorem microStep_of_ctrlWriteAt (h : ctrlWriteAt s.mpc = some (w, k)) : microStep s = ctrlThen w k s := by
  unfold microStep
  generalize s.mpc = l at h
  unfold ctrlWriteAt at h
  -- one case for each label that writes CTRL, and one, closed by `cases`, for all the others
  split at h <;> cases h <;> rfl

theorem microStep_engineCommand (hl : ctrlWriteAt s.mpc = some (w, k)) (hd : decodeCtrl s.ph w = .ok i) :
    microStep s = afterAccess (exec i s) k := by
  rw [microStep_of_ctrlWriteAt hl, ctrlThen, engineWrite_of_decode hd]

/-- A turn of SEQ at a label that writes CTRL runs the engine command the value decodes to (30_encoding.md R87). -/
theorem step_engineCommand (hc : configOk s.cfg = true) (hf : s.fault = false) (hi : s.cmdIssue = false)
    (ho : s.op ≠ .none) (ht : s.turns = .seq :: ts) (hl : ctrlWriteAt s.mpc = some (w, k))
    (hd : decodeCtrl s.ph w = .ok i) : step s = afterAccess (exec i { s with turns := ts }) k := by
  rw [step_seq hc hf hi ht, seqStep, if_neg ho]
  exact microStep_engineCommand hl hd

/-- `writerOf` names an operation and a label of its own that writes the value. -/
theorem writerOf_writes {ph : Phase} (h : decodeCtrl ph w = .ok i) :
    (writerOf w).1 ≠ .none ∧ (writerOf w).2.owner = (writerOf w).1 ∧ ∃ k, ctrlWriteAt (writerOf w).2 = some (w, k) := by
  obtain rfl | rfl | rfl | rfl | rfl := decodeCtrl_value h <;> exact ⟨nofun, rfl, _, rfl⟩

theorem eq_ok_of_toOption {ε α : Type} {r : Except ε α} {a : α} (h : r.toOption = some a) : r = .ok a := by
  cases r with
  | ok b => cases h; rfl
  | error e => cases h

theorem decodeTableWord_cmd {n : Nat} (h : decodeTableWord 16 n = some i) : decodeCmd (BitVec.ofNat 16 n) = .ok i :=
  eq_ok_of_toOption h

theorem decodeTableWord_ctrl {n : Nat} (h : decodeTableWord 8 n = some i) :
    decodeCtrl (tablePhase (BitVec.ofNat 8 n)) (BitVec.ofNat 8 n) = .ok i :=
  eq_ok_of_toOption h

/-- Settles O9: a command's word is issued from the port, and a CTRL value is written at the label `writerOf` names. -/
theorem placedWordsRunNext : Obligations.PlacedWordsRunNext := by
  refine ⟨fun s n i hc hf hr h => step_drivePort hc hf hr (decodeTableWord_cmd h), fun s n i hc hf h => ?_⟩
  have hd := decodeTableWord_ctrl h
  obtain ⟨ho, hown, k, hk⟩ := writerOf_writes hd
  exact ⟨_, _, k, hk, hown, step_engineCommand (s := placeCtrl (BitVec.ofNat 8 n) s) hc hf rfl ho rfl hk hd⟩

end Sys2Proof.Machine
end

section
/-! SUPPORT. HOST's turn in a step: what it leaves unchanged (20_memory.md R63, R78). -/

namespace Sys2Proof.Machine

/-- Settles O53: the step is HOST's turn, and HOST's turn writes the port and HOST's own state alone. -/
theorem hostReachesOnlyThePort : Obligations.HostReachesOnlyThePort := by
  intro s ts hc hf hi ht
  refine ⟨_, step_host hc hf hi ht, ?_⟩
  rw [hostStep_frame]
  exact ⟨rfl, rfl, rfl, rfl, rfl, rfl, rfl, rfl, rfl, rfl, rfl, rfl, rfl, rfl, rfl, rfl, rfl, rfl, rfl⟩

end Sys2Proof.Machine
end

section
/-! SUPPORT. The decoder by operation code and by CTRL value, and its agreement with the encoder (30_encoding.md R81 to
R87). -/

namespace Sys2Proof.Machine

variable {i j : Instr} {op arg w : Byte} {ph : Phase}

/-! ### The opcode map -/

theorem noOperand_error (h : arg ≠ 0x00) : noOperand arg i = .error .reservedArg := if_neg h

theorem noOperand_ok : noOperand arg i = .ok j ↔ arg = 0x00 ∧ i = j := by
  by_cases h : arg = 0x00
  · subst h; simp [noOperand]
  · rw [noOperand_error h]
    exact iff_of_false nofun fun ⟨h', _⟩ => h h'

theorem decodeCmd_init (arg : Byte) : decodeCmd (cmdOf 0x01 arg) = noOperand arg .init := by
  simp [decodeCmd]

theorem decodeCmd_start (arg : Byte) : decodeCmd (cmdOf 0x02 arg) = .ok (.start arg) := by
  simp [decodeCmd]

theorem decodeCmd_startWait (arg : Byte) : decodeCmd (cmdOf 0x03 arg) = .ok (.startWait arg) := by
  simp [decodeCmd]

theorem decodeCmd_write (arg : Byte) : decodeCmd (cmdOf 0x04 arg) = .ok (.write arg) := by
  simp [decodeCmd]

theorem decodeCmd_readAck (arg : Byte) : decodeCmd (cmdOf 0x05 arg) = noOperand arg .readAck := by
  simp [decodeCmd]

theorem decodeCmd_readNack (arg : Byte) : decodeCmd (cmdOf 0x06 arg) = noOperand arg .readNack := by
  simp [decodeCmd]

theorem decodeCmd_stop (arg : Byte) : decodeCmd (cmdOf 0x07 arg) = noOperand arg .stop := by
  simp [decodeCmd]

theorem decodeCmd_reservedOp (arg : Byte) (h : op = 0x00 ∨ 0x08 ≤ op.toNat) :
    decodeCmd (cmdOf op arg) = .error .reservedOp := by
  have hn : op.toNat = 0 ∨ 8 ≤ op.toNat := h.imp_left (congrArg BitVec.toNat)
  simp only [decodeCmd, cmdOpField_cmdOf]
  split
  case h_8 => rfl
  all_goals omega

/-- Each operation code is reserved or one of the table's seven (30_encoding.md R82, R83). -/
theorem opCode_cases (op : Byte) :
    (op = 0x00 ∨ 0x08 ≤ op.toNat) ∨
      op = 0x01 ∨ op = 0x02 ∨ op = 0x03 ∨ op = 0x04 ∨ op = 0x05 ∨ op = 0x06 ∨ op = 0x07 := by
  bv_omega

/-- Settles O4: the reserved operation codes take the map's last row, and the others their own. -/
theorem reservedWordsAreRejected : Obligations.ReservedWordsAreRejected := by
  refine ⟨fun op arg h => decodeCmd_reservedOp arg h, fun op arg hop harg => ?_,
    fun arg => ⟨decodeCmd_start arg, decodeCmd_startWait arg, decodeCmd_write arg⟩⟩
  obtain rfl | rfl | rfl | rfl := hop
  · exact (decodeCmd_init arg).trans (noOperand_error harg)
  · exact (decodeCmd_readAck arg).trans (noOperand_error harg)
  · exact (decodeCmd_readNack arg).trans (noOperand_error harg)
  · exact (decodeCmd_stop arg).trans (noOperand_error harg)

/-! ### Decoding and encoding -/

/-- A command stands in every phase state, since its legality is checked at issue (41_sequencer.md R133). -/
theorem wellFormedIn_of_isCommand (h : i.isCommand = true) : i.wellFormedIn ph = true := by
  cases i with
  | init | start | startWait | write | readAck | readNack | stop => rfl
  | eConfig | eStart | eSendAddr | eSendData | eRecvAck | eRecvNack | eStop => cases h

/-- Settles O1: the rows of the two tables, an engine row that `ph` tells apart in its own phase state. -/
theorem decodeOfEncode : Obligations.DecodeOfEncode := by
  intro ph i h
  cases i with
  | init => exact decodeCmd_init 0x00
  | start a => exact decodeCmd_start a
  | startWait a => exact decodeCmd_startWait a
  | write d => exact decodeCmd_write d
  | readAck => exact decodeCmd_readAck 0x00
  | readNack => exact decodeCmd_readNack 0x00
  | stop => exact decodeCmd_stop 0x00
  | eConfig | eStart | eStop => rfl
  | eSendAddr | eSendData | eRecvAck | eRecvNack =>
    obtain rfl := eq_of_beq h
    rfl

theorem encode_of_noOperand (he : encode i = .cmd (cmdOf op 0x00)) (h : noOperand arg i = .ok j) :
    encode j = .cmd (cmdOf op arg) := by
  obtain ⟨rfl, rfl⟩ := noOperand_ok.mp h
  exact he

theorem encode_of_decodeCmd_cmdOf (h : decodeCmd (cmdOf op arg) = .ok i) : encode i = .cmd (cmdOf op arg) := by
  obtain hr | rfl | rfl | rfl | rfl | rfl | rfl | rfl := opCode_cases op
  · rw [decodeCmd_reservedOp arg hr] at h; cases h
  · exact encode_of_noOperand rfl (decodeCmd_init arg ▸ h)
  · rw [decodeCmd_start] at h; cases h; rfl
  · rw [decodeCmd_startWait] at h; cases h; rfl
  · rw [decodeCmd_write] at h; cases h; rfl
  · exact encode_of_noOperand rfl (decodeCmd_readAck arg ▸ h)
  · exact encode_of_noOperand rfl (decodeCmd_readNack arg ▸ h)
  · exact encode_of_noOperand rfl (decodeCmd_stop arg ▸ h)

theorem encode_of_decodeCmd {c : CmdWord} (h : decodeCmd c = .ok i) : encode i = .cmd c := by
  rw [← cmdOf_fields c] at h ⊢
  exact encode_of_decodeCmd_cmdOf h

theorem encode_of_decodeCtrl (h : decodeCtrl ph w = .ok i) : encode i = .ctrl w ∧ i.wellFormedIn ph = true := by
  obtain rfl | rfl | rfl | rfl | rfl := decodeCtrl_value h
  · cases h; exact ⟨rfl, rfl⟩
  · cases h; exact ⟨rfl, rfl⟩
  · cases ph <;> cases h <;> exact ⟨rfl, rfl⟩
  · cases ph <;> cases h; exact ⟨rfl, rfl⟩
  · cases h; exact ⟨rfl, rfl⟩

/-- Settles O2: by the kind of the word. -/
theorem encodeOfDecode : Obligations.EncodeOfDecode := by
  intro ph c i h
  cases c with
  | cmd c => exact ⟨encode_of_decodeCmd h, wellFormedIn_of_isCommand (decodeCmd_isCommand h)⟩
  | ctrl v => exact encode_of_decodeCtrl h

/-- Settles O3: the decoder evaluated on each word. -/
theorem tableWordsDecode : Obligations.TableWordsDecode :=
  ⟨rfl, rfl, rfl, rfl, rfl, rfl, rfl, rfl, rfl, rfl, rfl, rfl⟩

end Sys2Proof.Machine
end

section
/-! SUPPORT. What a decoded word runs: a reserved word at issue (30_encoding.md R83, R84), and an engine command as the
CTRL write of its value (40_engine.md R103, R104). -/

namespace Sys2Proof.Machine

variable {s : State} {w : Byte} {i : Instr} {f : Inflight}

/-! ### A reserved word -/

theorem issueReserved_eq (s : State) :
    issueReserved s = { s with fault := true, fcode := if s.busy then 0x2 else 0x1 } := by
  cases hb : s.busy <;> simp [issueReserved, hb, State.raise, FaultCode.value]

theorem issueStep_of_reject {r : Reject} (h : decodeCmd (portWord s) = .error r) :
    issueStep s = whenLive s (issueReserved { s with cmdIssue := false }) := by
  rw [issueStep, h]

/-- Settles O14: with the strobe up the step is the issue step, which does not get as far as an instruction. -/
theorem reservedIssueFaults : Obligations.ReservedIssueFaults := by
  intro s r hc hf hr hi hd
  rw [step_issue hc hf hr hi, issueStep_of_reject hd, whenLive_live hf, issueReserved_eq]

/-! ### An engine command -/

/-- Settles O8: SEQ's turn at a label that writes CTRL is that write, and the write runs the decoded command. -/
theorem stepRunsTheEngineCommand : Obligations.StepRunsTheEngineCommand :=
  fun _ _ _ _ _ hc hf hi ho ht hl hd => step_engineCommand hc hf hi ho ht hl hd

/-- In flight the write and the command raise the same fault, so the order of their checks does not show. -/
theorem regWrite_ctrl_of_used (s : State) (h : ctrlValueUsed w = true) :
    regWrite .ctrl w s = ctrlCommand w (launchOf w s.ph) s := by
  by_cases hn : s.inflight = .none
  · simp [regWrite, writeCtrl, hn, h]
  · rw [regWrite_flight .ctrl w hn, ctrlCommand_flight w _ hn]

theorem ctrlValueUsed_of_decodeCtrl {ph : Phase} (h : decodeCtrl ph w = .ok i) : ctrlValueUsed w = true := by
  obtain rfl | rfl | rfl | rfl | rfl := decodeCtrl_value h <;> rfl

theorem exec_eSend (hi : i = .eSendAddr ∨ i = .eSendData) (hp : s.ph = .started ∨ s.ph = .mt) :
    exec i s = whenLive s (ctrlCommand 0x84 (some .send) s) := by
  have hs : sendPhase s.ph = some .send := by obtain hp | hp := hp <;> rw [hp] <;> rfl
  rw [← hs]
  obtain rfl | rfl := hi <;> rfl

theorem exec_eRecvAck (hp : s.ph = .mr) : exec .eRecvAck s = whenLive s (ctrlCommand 0xC4 (some .recvAck) s) := by
  rw [exec, execERecvAck, hp]; rfl

theorem exec_eRecvNack (hp : s.ph = .mr) : exec .eRecvNack s = whenLive s (ctrlCommand 0x84 (some .recvNack) s) := by
  rw [exec, execERecvNack, hp]; rfl

/-- The decoded row launches the phase that the launch table gives for the value (40_engine.md R104). -/
theorem exec_of_decodeCtrl (h : decodeCtrl s.ph w = .ok i) :
    exec i s = whenLive s (ctrlCommand w (launchOf w s.ph) s) := by
  obtain rfl | rfl | rfl | rfl | rfl := decodeCtrl_value h
  · cases h; rfl
  · cases h; rfl
  · cases hp : s.ph <;> rw [hp] at h <;> cases h
    · exact exec_eSend (.inl rfl) (.inl hp)
    · exact exec_eSend (.inr rfl) (.inr hp)
    · exact exec_eRecvNack hp
  · cases hp : s.ph <;> rw [hp] at h <;> cases h
    exact exec_eRecvAck hp
  · cases h; rfl

/-- Settles O21: the command and the write are one CTRL command with one launch. -/
theorem engineCommandIsItsCtrlWrite : Obligations.EngineCommandIsItsCtrlWrite := by
  intro s w i hf hd
  rw [exec_of_decodeCtrl hd, whenLive_live hf, regWrite_ctrl_of_used s (ctrlValueUsed_of_decodeCtrl hd)]

theorem ctrlCommand_launches (hn : s.inflight = .none) (hw : isLaunch w = true) :
    ctrlCommand w (some f) s = { s with ctrl := { s.ctrl.written w with int := false }, inflight := f } := by
  rw [ctrlCommand_rest w (some f) hn, if_pos hw, launch_some]

/-- Settles O24: each row's phase, launched by its CTRL command. -/
theorem byteTransferLaunches : Obligations.ByteTransferLaunches := by
  intro s hf hn
  refine ⟨fun hp i hi => ?_, fun hp => ?_, fun hp => ?_⟩
  · rw [exec_eSend hi hp, whenLive_live hf, ctrlCommand_launches hn rfl]; rfl
  · rw [exec_eRecvAck hp, whenLive_live hf, ctrlCommand_launches hn rfl]; rfl
  · rw [exec_eRecvNack hp, whenLive_live hf, ctrlCommand_launches hn rfl]; rfl

end Sys2Proof.Machine
end

section
/-! SUPPORT. The assembler on one line: the pseudo-instructions (30_encoding.md R93) and GET_TEMP
(42_host_transaction.md R164). -/

namespace Sys2Proof.Machine

variable {all a b : List HostLine} {x y : List HostStmt} {ln : HostLine}

/-! ### GET_TEMP -/

theorem stmtsOf_append (ha : stmtsOf all a = some x) (hb : stmtsOf all b = some y) :
    stmtsOf all (a ++ b) = some (x ++ y) := by
  induction a generalizing x with
  | nil => cases ha; exact hb
  | cons l ls ih =>
    rw [stmtsOf] at ha
    split at ha
    case h_1 u v hu hv =>
      cases ha
      rw [List.cons_append, stmtsOf, hu, ih hv, List.append_assoc]
    case h_2 => cases ha

/-- GET_TEMP's statements up to its RETURN, its branches to wherever `absent` stands. -/
theorem stmtsOf_getTempReading_of_labelIndex {absent t : Nat} (sel l m : Nat) (h : labelIndex absent all 0 = some t) :
    stmtsOf all (getTempReading sel absent l m) = some
      [.cmd 0x0100, .cmd 0x03B4, .ifResult 0x01 t, .cmd (if sel = 0 then 0x0407 else 0x0406), .cmd 0x03B5,
       .ifResult 0x01 t, .cmd 0x0500, .save l, .cmd 0x0500, .save m, .cmd 0x0600, .cmd 0x0700] := by
  have hbr : lineStmt all (.ifResult 0x01 absent) = some [.ifResult 0x01 t] := by rw [lineStmt, h]; rfl
  by_cases hs : sel = 0 <;> simp only [getTempReading, stmtsOf, hbr, tempCommand, hs, if_true, if_false] <;> rfl

/-- `absent` stands after the twelve statements of the reading and the RETURN. -/
theorem labelIndex_getTempLines (sel absent : Nat) : labelIndex absent (getTempLines sel absent) 0 = some 13 := by
  simp [getTempLines, getTempReading, labelIndex]

theorem assemble_getTemp (sel absent : Nat) :
    assemble [.getTemp sel absent] = stmtsOf (getTempLines sel absent) (getTempLines sel absent) := by
  simp [assemble, scriptWellFormed, HostLine.wellFormed, HostLine.defines, HostLine.uses, distinctLabels, expandLine]

/-! ### The pseudo-instructions -/

/-- The address byte is {addr7, dir} (30_encoding.md R88). -/
theorem addrByte_eq_append (a7 : BitVec 7) (d : BitVec 1) : addrByte a7.toNat d.toNat = a7 ++ d := by
  rw [addrByte, ← BitVec.toNat_append, BitVec.ofNat_toNat, BitVec.setWidth_eq]

theorem cmdOf_addrByte (op : Byte) (a7 : BitVec 7) (d : BitVec 1) :
    cmdOf op (addrByte a7.toNat d.toNat) = op ++ a7 ++ d := by
  rw [addrByte_eq_append, cmdOf, BitVec.append_assoc, BitVec.cast_eq]

theorem addr7Ok_toNat (a7 : BitVec 7) : addr7Ok a7.toNat = true :=
  decide_eq_true (Nat.le_of_lt_succ a7.isLt)

/-- A line without labels that expands to one command assembles to that command's word. -/
theorem assemble_command {i : Instr} {c : CmdWord} (hw : ln.wellFormed = true) (hd : ln.defines = [])
    (hu : ln.uses = []) (hx : expandLine ln = [.cmd i]) (he : encode i = .cmd c) : assemble [ln] = some [.cmd c] := by
  simp [assemble, scriptWellFormed, hw, hd, hu, hx, he, distinctLabels, stmtsOf, lineStmt]

/-- A script with a line that is not well formed is refused (30_encoding.md R93). -/
theorem assemble_refused {ls : List HostLine} (hm : ln ∈ ls) (h : ln.wellFormed = false) : assemble ls = none := by
  have hall : ls.all HostLine.wellFormed = false := List.all_eq_false.mpr ⟨ln, hm, by simp [h]⟩
  simp [assemble, scriptWellFormed, hall]

/-- Settles O56: GET_TEMP by its expansion, and each pseudo-instruction by its address byte. -/
theorem pseudoInstructionsAssemble : Obligations.PseudoInstructionsAssemble := by
  refine ⟨fun sel l => ?_, fun a7 => ?_, fun n hn => ?_⟩
  · rw [assemble_getTemp]
    have hl := labelIndex_getTempLines sel l
    exact stmtsOf_append (stmtsOf_getTempReading_of_labelIndex sel 0 1 hl) rfl
  · have hw := addr7Ok_toNat a7
    exact ⟨assemble_command hw rfl rfl rfl (congrArg CodeWord.cmd (cmdOf_addrByte 0x02 a7 0)),
      assemble_command hw rfl rfl rfl (congrArg CodeWord.cmd (cmdOf_addrByte 0x02 a7 1)),
      assemble_command hw rfl rfl rfl (congrArg CodeWord.cmd (cmdOf_addrByte 0x03 a7 0)),
      assemble_command hw rfl rfl rfl (congrArg CodeWord.cmd (cmdOf_addrByte 0x03 a7 1))⟩
  · have hw : addr7Ok n = false := decide_eq_false (Nat.not_le.mpr hn)
    have refused : ∀ ln : HostLine, ln.wellFormed = false → assemble [ln] = none :=
      fun ln => assemble_refused (List.mem_singleton_self ln)
    exact ⟨refused _ hw, refused _ hw, refused _ hw, refused _ hw⟩

end Sys2Proof.Machine
end

section
/-! SUPPORT. The engine registers and the engine commands, case by case (40_engine.md R102 to R111, R119, R122,
R123). -/

namespace Sys2Proof.Machine

variable {s : State} {w : Byte} {i : Instr} {f : Inflight}

/-! ### Reading CTRL and STATUS -/

theorem getLsbD_bitAt (b : Bool) (p j : Nat) : (bitAt b p).getLsbD j = (decide (j < 8) && decide (j = p) && b) := by
  simp only [bitAt, BitVec.getLsbD_shiftLeft, BitVec.getLsbD_setWidth, BitVec.getLsbD_ofBool]
  grind

theorem getLsbD_ctrlByte (c : Ctrl) :
    (ctrlByte c).getLsbD 7 = c.int ∧ (ctrlByte c).getLsbD 6 = c.ea ∧ (ctrlByte c).getLsbD 5 = c.sta ∧
    (ctrlByte c).getLsbD 4 = c.sto ∧ (ctrlByte c).getLsbD 3 = c.wc ∧ (ctrlByte c).getLsbD 2 = c.en ∧
    (ctrlByte c).getLsbD 1 = false ∧ (ctrlByte c).getLsbD 0 = c.ie := by
  simp only [ctrlByte, BitVec.getLsbD_or, getLsbD_bitAt]
  simp

/-- PS stands in the low two bits of STATUS, and bit 2 reads 0. -/
theorem statusByte_low (c : Code) (p : BitVec 2) :
    (statusByte c p).extractLsb' 0 2 = p ∧ (statusByte c p).getLsbD 2 = false := by
  revert p
  cases c <;> decide

/-- Settles O16: the bits of the two bytes, and the codes by their values. -/
theorem registerReadLayouts : Obligations.RegisterReadLayouts := by
  intro s t
  obtain ⟨h7, h6, h5, h4, h3, h2, h1, h0⟩ := getLsbD_ctrlByte s.ctrl
  obtain ⟨hps, hbit⟩ := statusByte_low s.code s.ps
  refine ⟨h7, h6, h5, h4, h3, h2, h1, h0, rfl, codeOf_statusByte s.code s.ps, hps, hbit, fun h => ?_⟩
  simp only [regRead_status, codeOf_statusByte] at h
  exact code_value_inj h

/-! ### Writing a register -/

/-- Settles O17: each register's write at rest, that of DATA with INT set and with INT clear. -/
theorem registerWritesAtRest : Obligations.RegisterWritesAtRest :=
  fun _ v hn => ⟨writeStatus_rest v hn, writeBitrate_rest v hn, writeData_rest v hn, writeData_collision v hn⟩

/-- Settles O18: the check for a phase in flight comes first in every register's write. -/
theorem writeInFlightFaults : Obligations.WriteInFlightFaults :=
  fun _ r v hn => regWrite_flight r v hn

theorem regWrite_ctrl_of_unused (s : State) (h : ctrlValueUsed w = false) :
    regWrite .ctrl w s = s.raise .sequence := by
  simp [regWrite, writeCtrl, h]

/-- Settles O19: with a phase in flight or without, the write only raises the fault. -/
theorem unusedCtrlValueFaults : Obligations.UnusedCtrlValueFaults :=
  fun s w hw => regWrite_ctrl_of_unused s (by simpa [ctrlValueUsed, and_assoc] using hw)

/-! ### Launches -/

theorem sendPhase_eq_none {ph : Phase} (hs : ph ≠ .started) (hm : ph ≠ .mt) : sendPhase ph = none := by
  cases ph with
  | started => exact absurd rfl hs
  | mt => exact absurd rfl hm
  | idle | mr | mrEnd => rfl

theorem recvPhase_eq_none {ph : Phase} (f : Inflight) (h : ph ≠ .mr) : recvPhase f ph = none := by
  cases ph with
  | mr => exact absurd rfl h
  | idle | started | mt | mrEnd => rfl

theorem launchOf_C4 (ph : Phase) : launchOf 0xC4 ph = recvPhase .recvAck ph := rfl

theorem ctrlCommand_faults (hn : s.inflight = .none) (hw : isLaunch w = true) :
    ctrlCommand w none s = ({ s with ctrl := { s.ctrl.written w with int := false } }).raise .sequence := by
  rw [ctrlCommand_rest w none hn, if_pos hw, launch_none]

theorem regWrite_ctrl_launches (hn : s.inflight = .none) (hu : ctrlValueUsed w = true) (hw : isLaunch w = true)
    (hl : launchOf w s.ph = some f) :
    regWrite .ctrl w s = { s with ctrl := { s.ctrl.written w with int := false }, inflight := f } := by
  rw [regWrite_ctrl_of_used s hu, hl, ctrlCommand_launches hn hw]

theorem regWrite_ctrl_faults (hn : s.inflight = .none) (hu : ctrlValueUsed w = true) (hw : isLaunch w = true)
    (hl : launchOf w s.ph = none) :
    regWrite .ctrl w s = ({ s with ctrl := { s.ctrl.written w with int := false } }).raise .sequence := by
  rw [regWrite_ctrl_of_used s hu, hl, ctrlCommand_faults hn hw]

/-- Settles O20: each launch value's write is a CTRL command with the phase that `launchOf` gives, or with none. -/
theorem launchTable : Obligations.LaunchTable := by
  intro s hn
  refine ⟨regWrite_ctrl_launches hn rfl rfl rfl, regWrite_ctrl_launches hn rfl rfl rfl,
    fun hp => regWrite_ctrl_launches hn rfl rfl ?_, fun hp => regWrite_ctrl_launches hn rfl rfl ?_,
    fun hp => regWrite_ctrl_faults hn rfl rfl ?_, fun hp => regWrite_ctrl_launches hn rfl rfl ?_,
    fun hp => regWrite_ctrl_faults hn rfl rfl ?_⟩
  · obtain hp | hp := hp <;> rw [hp] <;> rfl
  · rw [hp]; rfl
  · obtain hp | hp := hp <;> rw [hp] <;> rfl
  · rw [hp]; rfl
  · rw [launchOf_C4, recvPhase_eq_none _ hp]

/-! ### Engine commands -/

/-- Settles O23: the three commands whose CTRL write does not look at `ph`. -/
theorem phaseFreeEngineCommands : Obligations.PhaseFreeEngineCommands := by
  intro s hf hn
  refine ⟨(whenLive_live hf).trans ?_, (whenLive_live hf).trans ?_, (whenLive_live hf).trans ?_⟩
  · rw [ctrlCommand_rest 0x44 none hn]; rfl
  · rw [ctrlCommand_launches hn rfl]; rfl
  · rw [ctrlCommand_launches hn rfl]; rfl

/-- A launch row outside its phase states is a CTRL command that has no phase to launch. -/
theorem exec_outside_phase (h : ((i = .eRecvAck ∨ i = .eRecvNack) ∧ s.ph ≠ .mr) ∨
      ((i = .eSendAddr ∨ i = .eSendData) ∧ s.ph ≠ .started ∧ s.ph ≠ .mt)) :
    ∃ w, isLaunch w = true ∧ exec i s = whenLive s (ctrlCommand w none s) := by
  obtain ⟨rfl | rfl, hp⟩ | ⟨rfl | rfl, hs, hm⟩ := h
  · exact ⟨0xC4, rfl, by rw [exec, execERecvAck, recvPhase_eq_none _ hp]⟩
  · exact ⟨0x84, rfl, by rw [exec, execERecvNack, recvPhase_eq_none _ hp]⟩
  · exact ⟨0x84, rfl, by rw [exec, execESendAddr, sendPhase_eq_none hs hm]⟩
  · exact ⟨0x84, rfl, by rw [exec, execESendData, sendPhase_eq_none hs hm]⟩

/-- Settles O25: in flight the CTRL command faults at once, and outside its phase states after its field writes. -/
theorem engineCommandFaults : Obligations.EngineCommandFaults := by
  intro s i hf hi
  refine ⟨fun hn => ?_, fun hp => ?_⟩
  · obtain ⟨v, phase, he⟩ := exec_engine hi
    rw [he, whenLive_live hf, ctrlCommand_flight v _ hn]
    rfl
  · obtain ⟨w, hw, he⟩ := exec_outside_phase hp
    refine ⟨_, he.trans (whenLive_live hf), ?_⟩
    by_cases hn : s.inflight = .none
    · rw [ctrlCommand_faults hn hw]
      exact ⟨rfl, rfl, rfl, rfl⟩
    · rw [ctrlCommand_flight w _ hn]
      exact ⟨rfl, rfl, rfl, rfl⟩

end Sys2Proof.Machine
end

section
/-! SUPPORT. The completions as steps (40_engine.md R112 to R117, R120), what a turn without an enabled step leaves, and
what only a completion changes (40_engine.md R101, R118; 41_sequencer.md R134). -/

namespace Sys2Proof.Machine

open Host (Outcome)

variable {s t : State} {ts : List Turn} {o : Answer} {c : Bool}

/-! ### Completions -/

theorem engineStep_of_admitted (h : admitted s.cfg s.inflight o = true) : engineStep o s = complete o s := by
  rw [engineStep, if_pos h]

theorem engineStep_of_not_admitted (h : admitted s.cfg s.inflight o = false) : engineStep o s = s := by
  simp [engineStep, h]

/-- A turn of ENGINE with an answer that BUS may give completes the phase in flight. -/
theorem step_complete (hc : configOk s.cfg = true) (hf : s.fault = false) (hi : s.cmdIssue = false)
    (ht : s.turns = .engine o :: ts) (ha : admitted s.cfg s.inflight o = true)
    (hx : complete o { s with turns := ts } = t) : step s = .next t := by
  rw [step_engine o hc hf hi ht, ← hx]
  exact congrArg Outcome.next (engineStep_of_admitted ha)

/-- An abnormal outcome is admitted by ADMIT_ABNORMAL, for every phase but a STOP (10_state.md R46). -/
theorem admitted_abnormal (cfg : Config) {f : Inflight} (a : Abnormal) (hn : f ≠ .none) (hs : f ≠ .stop) :
    admitted cfg f (.abnormal a) = cfg.admitAbnormal := by
  cases f with
  | none => exact absurd rfl hn
  | stop => exact absurd rfl hs
  | start | send | recvAck | recvNack => rfl

theorem isRecv_or (f : Inflight) (b : Bool) :
    (f.isRecv || b) = if f = .recvAck ∨ f = .recvNack then true else b := by
  cases f <;> rfl

/-- Settles O27: the completion of R113 when the outcome is admitted, and else a turn without effect. -/
theorem abnormalCompletion : Obligations.AbnormalCompletion := by
  intro s c ts hc hf hi hn hs ht
  have hadm := admitted_abnormal s.cfg c hn hs
  refine ⟨fun ha => ?_, fun ha => ?_⟩
  · rw [step_complete hc hf hi ht (hadm.trans ha) (complete_abnormal c hn hs)]
    rw [← isRecv_or]
    cases c <;> rfl
  · rw [step_engine _ hc hf hi ht]
    exact congrArg Outcome.next (engineStep_of_not_admitted (hadm.trans ha))

/-- Settles O26: the answer OK off the bus and on it, and an abnormal outcome. -/
theorem startCompletion : Obligations.StartCompletion := by
  intro s ts hc hf hi hs
  have hok (ht : s.turns = .engine .ok :: ts) : step s = .next (startOk { s with turns := ts }).phaseDone :=
    step_complete hc hf hi ht (by rw [hs]; rfl) (complete_start hs)
  refine ⟨fun ht hp => ?_, fun ht hp => ?_, fun c ht ha => ?_⟩
  · rw [hok ht, startOk, if_pos hp]; rfl
  · rw [hok ht, startOk, if_neg hp]; rfl
  · rw [(abnormalCompletion s c ts hc hf hi (by simp [hs]) (by simp [hs]) ht).1 ha]
    cases c <;> simp [hs, Abnormal.code]

/-- Settles O28: an address byte by its direction bit and its answer, and a data byte by its answer. -/
theorem sendCompletion : Obligations.SendCompletion := by
  intro s a ts hc hf hi hs ht
  have hsent : step s = .next (byteSent a { s with turns := ts }).phaseDone :=
    step_complete hc hf hi ht (by rw [hs]; rfl) (complete_send a hs)
  refine ⟨fun hp hd => ?_, fun hp hd => ?_, fun hp => ?_⟩
  · rw [hsent, byteSent, if_pos hp, addrSent, isRead, hd]
    cases a <;> rfl
  · rw [hsent, byteSent, if_pos hp, addrSent, isRead, hd]
    cases a <;> rfl
  · rw [hsent, byteSent, if_neg (by simp [hp]), dataSent]
    cases a <;> rfl

/-- Settles O29: RECV with ACK and with NACK returned. -/
theorem receiveCompletion : Obligations.ReceiveCompletion := by
  intro s v ts hc hf hi ht
  exact ⟨fun hs => step_complete hc hf hi ht (by rw [hs]; rfl) (complete_recvAck v hs),
    fun hs => step_complete hc hf hi ht (by rw [hs]; rfl) (complete_recvNack v hs)⟩

theorem stopDone_eq (s : State) : stopDone s = { s with
    trace := if s.ph = .idle then s.trace else s.trace ++ [.stop], ph := .idle, code := .noInfo,
    ctrl := { s.ctrl with sto := false }, inflight := .none } := by
  unfold stopDone
  split <;> rfl

/-- Settles O30: a STOP completes whatever answer stands in the turn. -/
theorem stopCompletion : Obligations.StopCompletion := by
  intro s o ts hc hf hi hs ht
  have hd := (complete_stop (s := { s with turns := ts }) o hs).trans (stopDone_eq _)
  exact step_complete hc hf hi ht (by rw [hs]; rfl) hd

/-! ### Turns without an enabled step -/

/-- The work that follows a poll at the state's label: it goes to another label, ends the operation or retries
(41_sequencer.md R137 to R148). -/
inductive PollWork (s : State) : (State → State) → Prop
  | go {l : Label} (h : l ≠ s.mpc) : PollWork s (go l)
  | fin (v : Byte) : PollWork s (fin v)
  | retry (h : s.mpc = .startWait .w8) : PollWork s retry

/-- At a poll the micro-step is `wait_until` of the condition polled. -/
theorem microStep_of_pollAt (h : pollAt s = some c) : ∃ k, microStep s = waitUntil c k s ∧ PollWork s k := by
  unfold pollAt at h
  unfold microStep
  generalize hm : s.mpc = l at h
  split at h <;> cases h
  case h_2 => exact ⟨_, rfl, .retry hm⟩
  case h_3 => exact ⟨_, rfl, .fin 0x00⟩
  all_goals exact ⟨_, rfl, .go (by rw [hm]; decide)⟩

/-- A taken poll moves SEQ on and leaves every engine register, the pull-ups, ph, inflight and the trace alone
(40_engine.md R118). -/
theorem PollWork.moves {k : State → State} (h : PollWork s k) :
    ((k s).mpc ≠ s.mpc ∨ (k s).op = .none) ∧ (k s).ctrl = s.ctrl ∧ (k s).code = s.code ∧ (k s).ps = s.ps ∧
      (k s).bitrate = s.bitrate ∧ (k s).data = s.data ∧ (k s).puSda = s.puSda ∧ (k s).puScl = s.puScl ∧
      (k s).ph = s.ph ∧ (k s).inflight = s.inflight ∧ (k s).trace = s.trace := by
  cases h with
  | go h => exact ⟨.inl h, rfl, rfl, rfl, rfl, rfl, rfl, rfl, rfl, rfl, rfl⟩
  | fin v => exact ⟨.inr rfl, rfl, rfl, rfl, rfl, rfl, rfl, rfl, rfl, rfl, rfl⟩
  | retry h =>
    obtain h' | ⟨_, _, _, h'⟩ := retry_cases s <;> rw [h']
    · exact ⟨.inl (by simp [h]), rfl, rfl, rfl, rfl, rfl, rfl, rfl, rfl, rfl, rfl⟩
    · exact ⟨.inr rfl, rfl, rfl, rfl, rfl, rfl, rfl, rfl, rfl, rfl, rfl⟩

/-- Settles O31: no phase in flight admits an answer, SEQ without an operation holds, and a poll is `wait_until`. -/
theorem agentsWithoutAStepHold : Obligations.AgentsWithoutAStepHold := by
  intro s ts o c hc hf hi
  refine ⟨fun ht hn => ?_, fun ht ho => ?_, fun ht ho _ hp => ?_⟩
  · rw [step_engine o hc hf hi ht]
    exact congrArg Outcome.next (engineStep_of_not_admitted (s := { s with turns := ts }) (by rw [hn]; rfl))
  · rw [step_seq hc hf hi ht, seqStep, if_pos ho]
    exact whenLive_live hf
  · obtain ⟨k, hk, hw⟩ := microStep_of_pollAt (s := { s with turns := ts }) hp
    have hs : step s = waitUntil c k { s with turns := ts } := by
      rw [step_seq hc hf hi ht, seqStep, if_neg ho, hk]
    refine ⟨fun h => ?_, fun h => ?_⟩
    · subst h
      exact hs.trans (waitUntil_held k hf)
    · subst h
      exact ⟨_, hs.trans (waitUntil_taken k hf), hw.moves⟩

/-! ### What only a completion changes -/

/-- The bus as the block has left it: ph, STATUS.CODE and the trace. -/
def State.bus (s : State) : Phase × Code × List Event := (s.ph, s.code, s.trace)

theorem bus_eq_iff : t.bus = s.bus ↔ t.ph = s.ph ∧ t.code = s.code ∧ t.trace = s.trace := by
  simp [State.bus]

theorem seqStep_bus (h : seqStep s = .next t) : t.bus = s.bus := by
  obtain ⟨-, rfl⟩ | ⟨-, u, hu, rfl | ⟨v, rfl⟩⟩ := seqStep_cases h
  · rfl
  · exact (congrArg State.bus hu :)
  · exact (congrArg State.bus hu :)

theorem issueStep_bus (h : issueStep s = .next t) : t.bus = s.bus := by
  obtain ⟨c, rfl⟩ | ⟨op, a, -, -, -, rfl⟩ := issueStep_cases h <;> rfl

theorem hostStep_bus (s : State) : (hostStep s).bus = s.bus := by
  rw [hostStep_frame]
  rfl

/-- Settles O51: of the kinds of step, only ENGINE's turn can change them, and then it completes the phase in flight. -/
theorem onlyCompletionsMoveTheBus : Obligations.OnlyCompletionsMoveTheBus := by
  intro s t h hr
  have still (hb : t.bus = s.bus) : (∃ es, t.trace = s.trace ++ es) ∧
      (t.ph = s.ph ∧ t.code = s.code ∧ t.trace = s.trace ∨
        s.inflight ≠ .none ∧ t.inflight = .none ∧ ∃ o ts, s.turns = .engine o :: ts) := by
    have hb := bus_eq_iff.mp hb
    exact ⟨⟨[], by rw [hb.2.2, List.append_nil]⟩, .inl hb⟩
  obtain ⟨-, ⟨ts, ht, -⟩ | ⟨-, -, ⟨-, hs⟩ | ⟨-, ⟨-, rfl⟩ | ⟨ts, -, hs⟩ | ⟨o, ts, ht, rfl⟩ | ⟨ts, -, rfl⟩⟩⟩⟩ :=
    step_cases h
  · simp [noResetNext, ht] at hr
  · exact still (issueStep_bus hs)
  · exact still rfl
  · exact still (seqStep_bus (s := { s with turns := ts }) hs)
  · obtain ⟨-, -, -, -, -, hgrows, hsame | ⟨hn, hq⟩⟩ := engineStep_frame o { s with turns := ts }
    · exact still (congrArg State.bus hsame :)
    · exact ⟨hgrows, .inr ⟨hn, hq, o, ts, ht⟩⟩
  · exact still (hostStep_bus { s with turns := ts })

end Sys2Proof.Machine
end

section
/-! SUPPORT. The engine invariant with SEQ's place (40_engine.md R124) as one predicate of a state without a fault, and
SEQ's micro-steps that keep it without a fault, by kind of access (40_engine.md R122; 41_sequencer.md R137 to R148). -/

namespace Sys2Proof.Machine

open Host (Outcome)

variable {s t u : State} {op : Op} {w : Byte} {f : Inflight} {k : State → State}
  {r : Outcome State Fault Refusal}

/-! ### Sound states -/

/-- A state without a fault that meets the invariant. -/
structure Sound (s : State) : Prop where
  noFault : s.fault = false
  engine  : EngineInv s
  seq     : SeqInv s

theorem Inv.sound (h : Inv s) (hf : s.fault = false) : Sound s :=
  have ⟨he, hs⟩ := h hf
  ⟨hf, he, hs⟩

theorem Sound.inv (h : Sound s) : Inv s := fun _ => ⟨h.engine, h.seq⟩

/-- A faulted state meets the invariant, which speaks of states without a fault alone. -/
theorem inv_of_fault (h : s.fault = true) : Inv s := fun hf => absurd (h.symm.trans hf) (by decide)

/-- The step answers a state, and the state is sound. -/
def SoundNext (r : Outcome State Fault Refusal) : Prop := ∃ t, r = .next t ∧ Sound t

theorem Sound.next (h : Sound s) : SoundNext (.next s) := ⟨s, rfl, h⟩

theorem SoundNext.of_next (h : SoundNext r) (hr : r = .next t) : Sound t := by
  obtain ⟨u, hu, hs⟩ := h
  exact Outcome.next.inj (hr.symm.trans hu) ▸ hs

/-- The inputs to come are no part of the invariant. -/
theorem Sound.turns (h : Sound s) (ts : List Turn) : Sound { s with turns := ts } :=
  { h with engine := { h.engine with }, seq := { h.seq with } }

/-- At rest with STO clear the clauses about a phase in flight say nothing. -/
theorem EngineInv.of_quiet (hq : s.inflight = .none) (hsto : s.ctrl.sto = false)
    (hint : s.ph ≠ .idle → s.ctrl.int = true) (hstarted : s.ph = .started → s.code = .start ∨ s.code = .repStart)
    (hidle : s.ph = .idle → s.code = .noInfo ∨ s.code = .busError ∨ s.code = .arbLost)
    (hwc : s.ctrl.wc = false) (hie : s.ctrl.ie = false) (hps : s.ps = 0) : EngineInv s where
  heldInt _ := hint
  stoStop := by simp [hsto, hq]
  startedCode hp _ := hstarted hp
  idleCode hp _ := hidle hp
  noCollision := hwc
  flightInt hn := absurd hq hn
  sendPhase := by simp [hq]
  recvPhase := by simp [hq]
  noInterrupt := hie
  noPrescale := hps

theorem SeqInv.of_idle (ho : s.op = .none) (hb : s.busy = false) (hq : s.inflight = .none) : SeqInv s where
  busyOp := by simp [ho, hb]
  idle _ := hq
  label hn := absurd ho hn
  place hn := absurd ho hn
  enabled hn := absurd ho hn

/-- The reset state is sound (10_state.md R47). -/
theorem sound_resetWith (cfg : Config) : Sound (State.resetWith cfg) where
  noFault := rfl
  engine := .of_quiet rfl rfl (absurd rfl) nofun (fun _ => .inl rfl) rfl rfl rfl
  seq := .of_idle rfl rfl rfl

theorem sound_resetEvent (s : State) : Sound (resetEvent s) :=
  have h := sound_resetWith s.cfg
  { h with engine := { h.engine with }, seq := { h.seq with } }

/-- Settles O47: the reset state is sound. -/
theorem engineInvariantAtReset : Obligations.EngineInvariantAtReset :=
  fun cfg => (sound_resetWith cfg).inv

/-! ### What the engine invariant says of a poll and of the start-phase check -/

theorem EngineInv.quiet_of_int (h : EngineInv s) (hi : s.ctrl.int = true) : s.inflight = .none := by
  by_contra hn
  exact absurd (hi.symm.trans (h.flightInt hn)) (by decide)

theorem EngineInv.quiet_of_sto (h : EngineInv s) (hp : pollingSto s = true) (hs : s.ctrl.sto = false) :
    s.inflight = .none := by
  have hne : s.inflight ≠ .stop := fun hf => absurd (hs.symm.trans (h.stoStop.mpr hf)) (by decide)
  simpa [pollingSto, hne] using hp

/-- A start phase that passes the check on the status just latched holds the bus: off the bus the status is none of the
two START codes (40_engine.md R124 (d)). -/
theorem EngineInv.started_of_check (h : EngineInv s) (hq : s.inflight = .none)
    (hp : s.ph = .started ∨ s.ph = .idle) (hc : startFail s.latchStatus.twst = false) : s.ph = .started := by
  refine hp.resolve_right fun hi => ?_
  have hcode : s.code = .start ∨ s.code = .repStart := by simpa [State.latchStatus] using hc
  obtain h | h | h := h.idleCode hi hq <;> simp [h] at hcode

/-! ### Accesses of the engine registers keep the engine invariant -/

/-- The phase a launch value starts, with the phase states it starts it in (40_engine.md R104). -/
theorem launchOf_cases {ph : Phase} (h : launchOf w ph = some f) :
    (w = 0xA4 ∧ f = .start) ∨ (w = 0x94 ∧ f = .stop) ∨ (w = 0x84 ∧ f = .send ∧ (ph = .started ∨ ph = .mt)) ∨
      (w = 0x84 ∧ f = .recvNack ∧ ph = .mr) ∨ (w = 0xC4 ∧ f = .recvAck ∧ ph = .mr) := by
  unfold launchOf at h
  split_ifs at h with ha h9 h8 hc
  · cases h; exact .inl ⟨ha, rfl⟩
  · cases h; exact .inr (.inl ⟨h9, rfl⟩)
  · cases ph <;> cases h <;> simp [h8]
  · cases ph <;> cases h; simp [hc]

/-- What a launch leaves in CTRL: STO stands for a STOP alone, EN is set and IE is not. -/
theorem written_of_launchOf {ph : Phase} (c : Ctrl) (h : launchOf w ph = some f) :
    ((c.written w).sto = true ↔ f = .stop) ∧ (c.written w).en = true ∧ (c.written w).ie = false := by
  obtain ⟨rfl, rfl⟩ | ⟨rfl, rfl⟩ | ⟨rfl, rfl, -⟩ | ⟨rfl, rfl, -⟩ | ⟨rfl, rfl, -⟩ := launchOf_cases h <;>
    exact ⟨by simp [Ctrl.written], rfl, rfl⟩

theorem EngineInv.launch (h : EngineInv s) (hl : launchOf w s.ph = some f) :
    EngineInv { s with ctrl := { s.ctrl.written w with int := false }, inflight := f } := by
  obtain ⟨hsto, -, hie⟩ := written_of_launchOf s.ctrl hl
  have hphase := launchOf_cases hl
  have hf : f ≠ .none := by rintro rfl; simp at hphase
  exact
    { heldInt := fun hn => absurd hn hf
      stoStop := hsto
      startedCode := fun _ hn => absurd hn hf
      idleCode := fun _ hn => absurd hn hf
      noCollision := h.noCollision
      flightInt := fun _ => rfl
      sendPhase := by rintro rfl; simp at hphase; exact hphase.2
      recvPhase := by rintro (rfl | rfl) <;> simp at hphase <;> exact hphase.2
      noInterrupt := hie
      noPrescale := h.noPrescale }

theorem EngineInv.config (h : EngineInv s) (hq : s.inflight = .none) :
    EngineInv { s with ctrl := s.ctrl.written 0x44 } :=
  { h with
    stoStop := ⟨nofun, fun hs => absurd (hq.symm.trans hs) (by decide)⟩
    noInterrupt := rfl }

/-! ### SEQ in an operation -/

/-- SEQ is in the operation `op` of a state without a fault, wherever it stands. -/
structure InOp (s : State) (op : Op) : Prop where
  noFault : s.fault = false
  engine  : EngineInv s
  isOp    : op ≠ .none
  running : s.op = op
  busy    : s.busy = true
  enabled : op ≠ .init → s.ctrl.en = true

theorem Sound.inOp (h : Sound s) (ho : s.op ≠ .none) : InOp s s.mpc.owner := by
  rw [h.seq.label ho]
  exact ⟨h.noFault, h.engine, ho, rfl, h.seq.busyOp.mpr ho, h.seq.enabled ho⟩

/-- A step that goes to a label of the operation. -/
theorem InOp.goto {l : Label} (h : InOp s op) (hl : l.owner = op) (hp : atLabel (s.goto l) = true) :
    Sound (go l s) where
  noFault := h.noFault
  engine := { h.engine with }
  seq :=
    { busyOp := iff_of_true h.busy (h.running ▸ h.isOp)
      idle := fun hn => absurd (h.running.symm.trans hn) h.isOp
      label := fun _ => hl.trans h.running.symm
      place := fun _ => hp
      enabled := fun _ hi => h.enabled (h.running ▸ hi) }

/-- A step that finishes the operation, with no phase in flight. -/
theorem InOp.finish (h : InOp s op) (hq : s.inflight = .none) (v : Byte) : Sound (s.finish v) where
  noFault := h.noFault
  engine := { h.engine with }
  seq := .of_idle rfl rfl hq

/-- `retry` goes back to W0 or finishes, and both ask for no phase in flight. -/
theorem InOp.retry (h : InOp s .startWait) (hq : s.inflight = .none) : Sound (retry s) := by
  have h' : InOp { s with attempts := s.attempts + 1 } .startWait := { h with engine := { h.engine with } }
  obtain hr | ⟨n, -, -, hr⟩ := retry_cases s
  · exact hr ▸ h'.goto (l := .startWait .w0) rfl (by simp [atLabel, hq])
  · exact hr ▸ h'.finish hq 0x01

theorem InOp.latchStatus (h : InOp s op) : InOp s.latchStatus op := { h with engine := { h.engine with } }

/-- A CTRL write that launches a phase, on the way to a label that has the phase in flight. -/
theorem InOp.ctrlThen_launch {l : Label} (h : InOp s op) (hq : s.inflight = .none)
    (hl : launchOf w s.ph = some f) (ho : l.owner = op)
    (hp : ∀ u : State, u.inflight = f → atLabel (u.goto l) = true) : SoundNext (ctrlThen w (go l) s) := by
  rw [Machine.ctrlThen_launch _ h.noFault hq hl]
  obtain ⟨-, hen, -⟩ := written_of_launchOf s.ctrl hl
  have h' : InOp { s with ctrl := { s.ctrl.written w with int := false }, inflight := f } op :=
    { h with engine := h.engine.launch hl, enabled := fun _ => hen }
  exact (h'.goto ho (hp _ rfl)).next

/-- The configuration write at the end of INIT. -/
theorem InOp.ctrlThen_config (h : InOp s op) (hq : s.inflight = .none) (v : Byte) :
    SoundNext (ctrlThen 0x44 (fin v) s) := by
  rw [Machine.ctrlThen_config _ h.noFault hq]
  have h' : InOp { s with ctrl := s.ctrl.written 0x44 } op :=
    { h with engine := h.engine.config hq, enabled := fun _ => rfl }
  exact (h'.finish hq v).next

/-- A write of DATA with the bus held, where INT is set and the byte is stored, on the way to a label with no phase in
flight. -/
theorem InOp.writeThen_data {l : Label} (h : InOp s op) (hq : s.inflight = .none) (hb : s.ph ≠ .idle) (v : Byte)
    (ho : l.owner = op) (hp : ∀ u : State, u.inflight = .none → u.ph = s.ph → atLabel (u.goto l) = true) :
    SoundNext (writeThen .data v (go l) s) := by
  rw [Machine.writeThen_data v _ h.noFault hq (h.engine.heldInt hq hb)]
  have h' : InOp { s with data := v, ctrl := { s.ctrl with wc := false } } op :=
    { h with engine := { h.engine with noCollision := rfl } }
  exact (h'.goto ho (hp _ hq rfl)).next

/-- A poll: the step is taken when the condition holds. -/
theorem Sound.waitUntil {c : Bool} (h : Sound s) (hk : c = true → Sound (k s)) : SoundNext (waitUntil c k s) := by
  cases c with
  | false => exact waitUntil_held k h.noFault ▸ h.next
  | true => exact waitUntil_taken k h.noFault ▸ (hk rfl).next

theorem Sound.whenLive (h : Sound t) (hf : s.fault = false) : SoundNext (whenLive s t) :=
  whenLive_live (t := t) hf ▸ h.next

/-- A poll of INT: once the flag is set, nothing is in flight (40_engine.md R118). -/
theorem InOp.pollInt {l : Label} (h : InOp s op) (hs : Sound s) (ho : l.owner = op)
    (hp : s.inflight = .none → atLabel (s.goto l) = true) : SoundNext (Machine.waitUntil s.ctrl.int (go l) s) :=
  hs.waitUntil fun hc => h.goto ho (hp (h.engine.quiet_of_int hc))

/-- The start-phase check on the status just latched: what it lets pass goes on with the bus held. -/
theorem InOp.checkStart {l : Label} (h : InOp s op) (hq : s.inflight = .none) (hb : s.ph = .started ∨ s.ph = .idle)
    (hfail : Sound t) (ho : l.owner = op)
    (hp : ∀ u : State, u.inflight = .none → u.ph = .started → atLabel (u.goto l) = true) :
    Sound (if startFail s.latchStatus.twst then t else s.latchStatus.goto l) := by
  split
  · exact hfail
  · rename_i hc
    exact h.latchStatus.goto ho (hp _ hq (h.engine.started_of_check hq hb (by simpa using hc)))

/-! ### SEQ's micro-programs -/

theorem atLabel_goto_mpc {l : Label} (h : atLabel s = true) (hm : s.mpc = l) : atLabel (s.goto l) = true := by
  subst hm; exact h

/-- At a label of a running operation: the operation is the label's own, and the engine is as the label has it. -/
theorem Sound.at_label {l : Label} (h : Sound s) (ho : s.op ≠ .none) (hm : s.mpc = l) :
    InOp s l.owner ∧ atLabel (s.goto l) = true :=
  ⟨hm ▸ h.inOp ho, atLabel_goto_mpc (h.seq.place ho) hm⟩

theorem Sound.microInit {l : InitLabel} (hs : Sound s) (ho : s.op ≠ .none) (hm : s.mpc = .init l) :
    SoundNext (microInit l s) := by
  obtain ⟨h, hp⟩ := hs.at_label ho hm
  cases l with
  | i0 =>
    have h' : InOp { s with puSda := true } .init := { h with engine := { h.engine with } }
    exact Sound.whenLive (h'.goto rfl hp) h.noFault
  | i1 =>
    have h' : InOp { s with puScl := true } .init := { h with engine := { h.engine with } }
    exact Sound.whenLive (h'.goto rfl hp) h.noFault
  | i2 =>
    have h' : InOp { s with ps := 0 } .init := { h with engine := { h.engine with noPrescale := rfl } }
    rw [Machine.microInit, writeThen_status 0x00 _ h.noFault (eq_of_beq hp)]
    exact Sound.next (h'.goto rfl hp)
  | i3 =>
    have h' : InOp { s with bitrate := divisorByte s.cfg } .init := { h with engine := { h.engine with } }
    rw [Machine.microInit, writeThen_bitrate _ _ h.noFault (eq_of_beq hp)]
    refine Sound.next (h'.goto rfl ?_)
    split <;> exact hp
  | i4 => exact h.ctrlThen_launch (eq_of_beq hp) rfl rfl fun u hf => by simp [atLabel, pollingSto, hf]
  | i5 =>
    refine hs.waitUntil fun hc => h.goto rfl ?_
    simp [atLabel, h.engine.quiet_of_sto hp (by simpa using hc)]
  | i6 => exact h.ctrlThen_config (eq_of_beq hp) 0x00

theorem Sound.microStart {l : StartLabel} (hs : Sound s) (ho : s.op ≠ .none) (hm : s.mpc = .start l) :
    SoundNext (microStart l s) := by
  obtain ⟨h, hp⟩ := hs.at_label ho hm
  cases l with
  | s0 => exact h.ctrlThen_launch (eq_of_beq hp) rfl rfl fun u hf => by simp [atLabel, pollingInt, hf]
  | s1 => exact h.pollInt hs rfl fun hq => by simp_all [atLabel, pollingInt]
  | s2 =>
    obtain ⟨hq, hph⟩ : s.inflight = .none ∧ (s.ph = .started ∨ s.ph = .idle) := by simpa [atLabel] using hp
    refine Sound.whenLive (h.checkStart hq hph (h.latchStatus.finish hq 0x01) rfl fun u hu hst => ?_) h.noFault
    simp [atLabel, hu, hst]
  | s3 =>
    obtain ⟨hq, hst⟩ : s.inflight = .none ∧ s.ph = .started := by simpa [atLabel] using hp
    exact h.writeThen_data hq (by simp [hst]) s.arg rfl fun u hu hph => by simp [atLabel, hu, hph, hst]
  | s4 =>
    obtain ⟨hq, hst⟩ : s.inflight = .none ∧ s.ph = .started := by simpa [atLabel] using hp
    exact h.ctrlThen_launch hq (by rw [hst]; rfl) rfl fun u hf => by simp [atLabel, pollingInt, hf]
  | s5 => exact h.pollInt hs rfl fun hq => by simp [atLabel, hq]
  | s6 => exact Sound.whenLive (h.latchStatus.finish (eq_of_beq hp) _) h.noFault

theorem Sound.microStartWait {l : WaitLabel} (hs : Sound s) (ho : s.op ≠ .none) (hm : s.mpc = .startWait l) :
    SoundNext (microStartWait l s) := by
  obtain ⟨h, hp⟩ := hs.at_label ho hm
  cases l with
  | w0 => exact h.ctrlThen_launch (eq_of_beq hp) rfl rfl fun u hf => by simp [atLabel, pollingInt, hf]
  | w1 => exact h.pollInt hs rfl fun hq => by simp_all [atLabel, pollingInt]
  | w2 =>
    obtain ⟨hq, hph⟩ : s.inflight = .none ∧ (s.ph = .started ∨ s.ph = .idle) := by simpa [atLabel] using hp
    refine Sound.whenLive (h.checkStart hq hph (h.latchStatus.retry hq) rfl fun u hu hst => ?_) h.noFault
    simp [atLabel, hu, hst]
  | w3 =>
    obtain ⟨hq, hst⟩ : s.inflight = .none ∧ s.ph = .started := by simpa [atLabel] using hp
    exact h.writeThen_data hq (by simp [hst]) s.arg rfl fun u hu hph => by simp [atLabel, hu, hph, hst]
  | w4 =>
    obtain ⟨hq, hst⟩ : s.inflight = .none ∧ s.ph = .started := by simpa [atLabel] using hp
    exact h.ctrlThen_launch hq (by rw [hst]; rfl) rfl fun u hf => by simp [atLabel, pollingInt, hf]
  | w5 => exact h.pollInt hs rfl fun hq => by simp [atLabel, hq]
  | w6 =>
    refine Sound.whenLive ?_ h.noFault
    unfold waitAddrCheck
    split
    · exact h.latchStatus.goto rfl hp
    · exact h.latchStatus.finish (eq_of_beq hp) 0x00
  | w7 => exact h.ctrlThen_launch (eq_of_beq hp) rfl rfl fun u hf => by simp [atLabel, pollingSto, hf]
  | w8 => exact hs.waitUntil fun hc => h.retry (h.engine.quiet_of_sto hp (by simpa using hc))

theorem Sound.microWrite {l : WriteLabel} (hs : Sound s) (ho : s.op ≠ .none) (hm : s.mpc = .write l) :
    SoundNext (microWrite l s) := by
  obtain ⟨h, hp⟩ := hs.at_label ho hm
  cases l with
  | t0 =>
    obtain ⟨hq, hmt⟩ : s.inflight = .none ∧ s.ph = .mt := by simpa [atLabel] using hp
    exact h.writeThen_data hq (by simp [hmt]) s.arg rfl fun u hu hph => by simp [atLabel, hu, hph, hmt]
  | t1 =>
    obtain ⟨hq, hmt⟩ : s.inflight = .none ∧ s.ph = .mt := by simpa [atLabel] using hp
    exact h.ctrlThen_launch hq (by rw [hmt]; rfl) rfl fun u hf => by simp [atLabel, pollingInt, hf]
  | t2 => exact h.pollInt hs rfl fun hq => by simp [atLabel, hq]
  | t3 => exact Sound.whenLive (h.latchStatus.finish (eq_of_beq hp) _) h.noFault

theorem Sound.microReadAck {l : ReadAckLabel} (hs : Sound s) (ho : s.op ≠ .none) (hm : s.mpc = .readAck l) :
    SoundNext (microReadAck l s) := by
  obtain ⟨h, hp⟩ := hs.at_label ho hm
  cases l with
  | a0 =>
    obtain ⟨hq, hmr⟩ : s.inflight = .none ∧ s.ph = .mr := by simpa [atLabel] using hp
    exact h.ctrlThen_launch hq (by rw [hmr]; rfl) rfl fun u hf => by simp [atLabel, pollingInt, hf]
  | a1 => exact h.pollInt hs rfl fun hq => by simp [atLabel, hq]
  | a2 => exact Sound.whenLive (h.finish (eq_of_beq hp) _) h.noFault

theorem Sound.microReadNack {l : ReadNackLabel} (hs : Sound s) (ho : s.op ≠ .none) (hm : s.mpc = .readNack l) :
    SoundNext (microReadNack l s) := by
  obtain ⟨h, hp⟩ := hs.at_label ho hm
  cases l with
  | n0 =>
    obtain ⟨hq, hmr⟩ : s.inflight = .none ∧ s.ph = .mr := by simpa [atLabel] using hp
    exact h.ctrlThen_launch hq (by rw [hmr]; rfl) rfl fun u hf => by simp [atLabel, pollingInt, hf]
  | n1 => exact h.pollInt hs rfl fun hq => by simp [atLabel, hq]
  | n2 => exact Sound.whenLive (h.finish (eq_of_beq hp) _) h.noFault

theorem Sound.microStop {l : StopLabel} (hs : Sound s) (ho : s.op ≠ .none) (hm : s.mpc = .stop l) :
    SoundNext (microStop l s) := by
  obtain ⟨h, hp⟩ := hs.at_label ho hm
  cases l with
  | p0 => exact h.ctrlThen_launch (eq_of_beq hp) rfl rfl fun u hf => by simp [atLabel, pollingSto, hf]
  | p1 => exact hs.waitUntil fun hc => h.finish (h.engine.quiet_of_sto hp (by simpa using hc)) 0x00

/-- SEQ's turn answers a sound state. -/
theorem Sound.seqStep (h : Sound s) : SoundNext (seqStep s) := by
  unfold Machine.seqStep
  split
  · exact Sound.whenLive h h.noFault
  · rename_i ho
    unfold microStep
    split
    · rename_i l hm; exact h.microInit ho hm
    · rename_i l hm; exact h.microStart ho hm
    · rename_i l hm; exact h.microStartWait ho hm
    · rename_i l hm; exact h.microWrite ho hm
    · rename_i l hm; exact h.microReadAck ho hm
    · rename_i l hm; exact h.microReadNack ho hm
    · rename_i l hm; exact h.microStop ho hm

end Sys2Proof.Machine
end

section
/-! SUPPORT. The completions, HOST's turn and the issue keep the engine invariant (40_engine.md R124), and no step but
the issue raises a fault (40_engine.md R122). -/

namespace Sys2Proof.Machine

variable {s t : State} {op : Op}

/-! ### Completions -/

/-- A completion keeps SEQ's place: every label at which a phase is in flight also stands when the phase is over. -/
theorem atLabel_of_phaseOver (h : atLabel s = true) (hn : s.inflight ≠ .none) (hm : t.mpc = s.mpc)
    (hq : t.inflight = .none) (hint : s.inflight ≠ .stop → t.ctrl.int = true)
    (hstart : s.inflight = .start → t.ph = .started ∨ t.ph = .idle) : atLabel t = true := by
  have sto : pollingSto t = true := by simp [pollingSto, hq]
  have int {f : Inflight} (hf : f ≠ .stop) (hp : pollingInt f s = true) : s.inflight = f ∧ pollingInt f t = true := by
    have hsf : s.inflight = f := by simpa [pollingInt, hn] using hp
    exact ⟨hsf, by simp [pollingInt, hq, hint (hsf ▸ hf)]⟩
  have start (hp : (pollingInt .start s && (s.inflight != .none || s.ph == .started || s.ph == .idle)) = true) :
      (pollingInt .start t && (t.inflight != .none || t.ph == .started || t.ph == .idle)) = true := by
    obtain ⟨hf, ht⟩ := int (f := .start) nofun (Bool.and_eq_true_iff.mp hp).1
    simpa [ht, hq] using hstart hf
  have quiet {b : Bool} (hp : (s.inflight == .none) = true) : b = true := absurd (eq_of_beq hp) hn
  unfold atLabel at h ⊢
  rw [hm]
  generalize s.mpc = l at h
  split at h
  case h_1 | h_2 | h_3 => exact sto
  case h_5 | h_6 => exact start h
  case h_13 | h_14 | h_15 => exact (int (f := .send) nofun h).2
  case h_20 => exact (int (f := .recvAck) nofun h).2
  case h_21 => exact (int (f := .recvNack) nofun h).2
  case h_4 | h_22 | h_23 | h_24 | h_25 | h_26 | h_27 => exact quiet h
  all_goals exact quiet (Bool.and_eq_true_iff.mp h).1

/-- A START, SEND or RECV completion keeps the invariant when the code it leaves fits its phase state. -/
theorem Sound.phaseDone (h : Sound s) (hn : s.inflight ≠ .none) (hs : s.inflight ≠ .stop) {d : Byte} {c : Code}
    {p : Phase} {tr : List Event} {b : Bool} (hstarted : p = .started → c = .start ∨ c = .repStart)
    (hidle : p = .idle → c = .noInfo ∨ c = .busError ∨ c = .arbLost)
    (hstart : s.inflight = .start → p = .started ∨ p = .idle) :
    Sound ({ s with data := d, code := c, ph := p, trace := tr, readFailed := b }).phaseDone where
  noFault := h.noFault
  engine :=
    .of_quiet rfl (by simpa [hs] using h.engine.stoStop) (fun _ => rfl) hstarted hidle h.engine.noCollision
      h.engine.noInterrupt h.engine.noPrescale
  seq :=
    { h.seq with
      idle := fun _ => rfl
      place := fun ho => atLabel_of_phaseOver (h.seq.place ho) hn rfl rfl (fun _ => rfl) hstart }

theorem Sound.stopDone (h : Sound s) (hs : s.inflight = .stop) : Sound (stopDone s) := by
  rw [stopDone_eq]
  exact
    { noFault := h.noFault
      engine :=
        .of_quiet rfl rfl (absurd rfl) nofun (fun _ => .inl rfl) h.engine.noCollision h.engine.noInterrupt
          h.engine.noPrescale
      seq :=
        { h.seq with
          idle := fun _ => rfl
          place := fun ho =>
            atLabel_of_phaseOver (h.seq.place ho) (by simp [hs]) rfl rfl (absurd hs) (by simp [hs]) } }

theorem addrPhase_ne (read : Bool) (a : Ack) : addrPhase read a ≠ .started ∧ addrPhase read a ≠ .idle := by
  cases read <;> cases a <;> decide

/-- ENGINE's turn keeps the invariant. -/
theorem Sound.engineStep (h : Sound s) (o : Answer) : Sound (engineStep o s) := by
  obtain he | ⟨hf, he⟩ | ⟨c, -, hn, hs, -, he⟩ | ⟨hf, -, he⟩ | ⟨a, hf, -, he⟩ | ⟨v, hf, -, he⟩ | ⟨v, hf, -, he⟩ :=
    engineStep_cases o s <;> rw [he]
  · exact h
  · exact h.stopDone hf
  · exact h.phaseDone hn hs nofun (fun _ => by cases c <;> simp [Abnormal.code]) (fun _ => .inr rfl)
  · unfold startOk
    split
    · exact h.phaseDone (by simp [hf]) (by simp [hf]) (fun _ => .inl rfl) nofun (fun _ => .inl rfl)
    · exact h.phaseDone (by simp [hf]) (by simp [hf]) (fun _ => .inr rfl) nofun (fun _ => .inl rfl)
  · unfold byteSent
    split
    · obtain ⟨hst, hid⟩ := addrPhase_ne (isRead s.data) a
      exact h.phaseDone (by simp [hf]) (by simp [hf]) (absurd · hst) (absurd · hid) (by simp [hf])
    · exact h.phaseDone (by simp [hf]) (by simp [hf]) nofun nofun (by simp [hf])
  · exact h.phaseDone (by simp [hf]) (by simp [hf]) nofun nofun (by simp [hf])
  · exact h.phaseDone (by simp [hf]) (by simp [hf]) nofun nofun (by simp [hf])

/-! ### HOST's turn and the issue -/

/-- HOST's turn writes nothing the invariant speaks of. -/
theorem Sound.hostStep (h : Sound s) : Sound (hostStep s) := by
  rw [hostStep_frame]
  exact { h with engine := { h.engine with }, seq := { h.seq with } }

theorem firstLabel_owner (ho : op ≠ .none) : (firstLabel op).owner = op := by
  cases op with
  | none => exact absurd rfl ho
  | init | start | startWait | write | readAck | readNack | stop => rfl

/-- The legality table asks of the engine what the operation's first label does (41_sequencer.md R133). -/
theorem atLabel_begin (hq : s.inflight = .none) (hl : legalFault op s = none) (a : Byte) :
    atLabel (s.begin op a) = true := by
  cases op with
  | none | init | start | startWait | stop => simp [atLabel, firstLabel, hq]
  | write =>
    obtain ⟨-, hph⟩ : s.ctrl.en = true ∧ s.ph = .mt := by simpa using (legalFault_none _ s).mp hl
    simp [atLabel, firstLabel, hq, hph]
  | readAck | readNack =>
    obtain ⟨-, hph⟩ : s.ctrl.en = true ∧ s.ph = .mr := by simpa using (legalFault_none _ s).mp hl
    simp [atLabel, firstLabel, hq, hph]

/-- A legal operation begins soundly. -/
theorem Sound.begin (h : Sound s) (ho : op ≠ .none) (a : Byte) (hb : s.busy = false) (hl : legalFault op s = none) :
    Sound (s.begin op a) := by
  have hq : s.inflight = .none := h.seq.idle (by simpa [hb] using h.seq.busyOp)
  exact
    { noFault := h.noFault
      engine := { h.engine with }
      seq :=
        { busyOp := iff_of_true rfl ho
          idle := fun hn => absurd hn ho
          label := fun _ => firstLabel_owner ho
          place := fun _ => atLabel_begin hq hl a
          enabled := fun _ hi => (((legalFault_none op s).mp hl).resolve_left (not_or.mpr ⟨ho, hi⟩)).1 } }

/-- The issue faults, or begins an operation soundly. -/
theorem Sound.inv_issueStep (h : Sound s) (hi : issueStep s = .next t) : Inv t := by
  obtain ⟨c, rfl⟩ | ⟨op, a, ho, hb, hl, rfl⟩ := issueStep_cases hi
  · exact inv_of_fault rfl
  · have h' : Sound { s with cmdIssue := false } := { h with engine := { h.engine with }, seq := { h.seq with } }
    exact (h'.begin ho a hb (by cases op <;> exact hl)).inv

/-! ### Every step -/

/-- Every step but the issue answers a sound state: the reset event, a turn of SEQ, ENGINE or HOST, or none. -/
theorem Sound.step (h : Sound s) (hi : s.cmdIssue = false) (hs : step s = .next t) : Sound t := by
  obtain ⟨-, ⟨ts, -, rfl⟩ | ⟨-, -, ⟨hi', -⟩ | ⟨-, ⟨-, rfl⟩ | ⟨ts, -, hs⟩ | ⟨o, ts, -, rfl⟩ | ⟨ts, -, rfl⟩⟩⟩⟩ :=
    step_cases hs
  · exact sound_resetEvent _
  · exact absurd (hi'.symm.trans hi) (by decide)
  · exact h
  · exact (h.turns ts).seqStep.of_next hs
  · exact (h.turns ts).engineStep o
  · exact (h.turns ts).hostStep

/-- Settles O46: the reset event starts again, the issue faults or begins an operation soundly, and every other step
answers a sound state. -/
theorem engineInvariantIsKept : Obligations.EngineInvariantIsKept := by
  intro s t hinv hs
  obtain ⟨-, ⟨ts, -, rfl⟩ | ⟨hf, -, ⟨-, hi⟩ | ⟨hi, -⟩⟩⟩ := step_cases hs
  · exact (sound_resetEvent _).inv
  · exact (hinv.sound hf).inv_issueStep hi
  · exact ((hinv.sound hf).step hi hs).inv

/-- Settles O48: a step that is not the issue answers a sound state, which has no fault. -/
theorem onlyIssueFaults : Obligations.OnlyIssueFaults :=
  fun _ _ hinv hf hi hs => ((hinv.sound hf).step hi hs).noFault

end Sys2Proof.Machine
end

section
/-! SUPPORT. The issue of each command: when it begins, what it raises, and the quiescence of a faulted machine
(41_sequencer.md R131 to R136). -/

namespace Sys2Proof.Machine

open Host (Outcome)

variable {s : State} {i : Instr} {op : Op} {w : CmdWord}

/-! ### The operation a command issues -/

/-- The operation and the operand that a command issues (41_sequencer.md R131); an engine command issues none. -/
def issued : Instr → Op × Byte
  | .init => (.init, 0x00)
  | .start a => (.start, a)
  | .startWait a => (.startWait, a)
  | .write d => (.write, d)
  | .readAck => (.readAck, 0x00)
  | .readNack => (.readNack, 0x00)
  | .stop => (.stop, 0x00)
  | .eConfig | .eStart | .eSendAddr | .eSendData | .eRecvAck | .eRecvNack | .eStop => (.none, 0x00)

theorem exec_of_isCommand (h : i.isCommand = true) (s : State) :
    exec i s = whenLive s (issue (issued i).1 (issued i).2 s) := by
  cases i with
  | init | start | startWait | write | readAck | readNack | stop => rfl
  | eConfig | eStart | eSendAddr | eSendData | eRecvAck | eRecvNack | eStop => cases h

theorem issued_ne_init (h : i ≠ .init) : (issued i).1 ≠ .init := by
  cases i <;> simp_all [issued]

theorem issued_ne_none (h : i.isCommand = true) : (issued i).1 ≠ .none := by
  cases i <;> simp_all [issued, Instr.isCommand]

/-! ### The issue of a command -/

/-- A legal command issued while BUSY is 0 begins its operation. -/
theorem exec_begins (h : i.isCommand = true) (hf : s.fault = false) (hb : s.busy = false)
    (hl : legalFault (issued i).1 s = none) : exec i s = .next (s.begin (issued i).1 (issued i).2) := by
  rw [exec_of_isCommand h, whenLive_live hf, issue_begin _ hb hl]

theorem exec_busy (h : i.isCommand = true) (hf : s.fault = false) (hb : s.busy = true) :
    exec i s = .next (s.raise .busy) := by
  rw [exec_of_isCommand h, whenLive_live hf, issue, if_pos hb]

/-- A command that is not legal, issued while BUSY is 0, raises the legality table's fault. -/
theorem exec_illegal {c : FaultCode} (h : i.isCommand = true) (hf : s.fault = false) (hb : s.busy = false)
    (hl : legalFault (issued i).1 s = some c) : exec i s = .next (s.raise c) := by
  rw [exec_of_isCommand h, whenLive_live hf]
  simp [issue, hb, hl]

/-- Without EN every operation but INIT is refused (41_sequencer.md R133). -/
theorem legalFault_disabled (he : s.ctrl.en = false) (hn : op ≠ .none) (hi : op ≠ .init) :
    legalFault op s = some .notEnabled := by
  cases op with
  | none => exact absurd rfl hn
  | init => exact absurd rfl hi
  | start | startWait | write | readAck | readNack | stop => simp [legalFault, he]

/-- Settles O10: INIT's row of the legality table is empty. -/
theorem initIsIssuedInEveryState : Obligations.InitIsIssuedInEveryState :=
  fun _ hf hb => exec_begins rfl hf hb rfl

/-- Settles O11: the three rows of the legality table that ask for EN alone. -/
theorem startAndStopAreIssuedWhenEnabled : Obligations.StartAndStopAreIssuedWhenEnabled := by
  intro s a hf hb he
  exact ⟨exec_begins rfl hf hb (if_pos he), exec_begins rfl hf hb (if_pos he), exec_begins rfl hf hb (if_pos he)⟩

/-- Settles O12: the three rows of the legality table that ask for a phase state too. -/
theorem byteTransfersAreIssuedInTheirPhase : Obligations.ByteTransfersAreIssuedInTheirPhase := by
  intro s d hf hb he
  refine ⟨fun hp => exec_begins rfl hf hb ?_, fun hp => exec_begins rfl hf hb ?_, fun hp => exec_begins rfl hf hb ?_⟩
  all_goals simp [issued, legalFault, he, hp]

/-- Settles O13: BUSY is looked at first, and then the operation's row of the legality table. -/
theorem illegalIssueFaults : Obligations.IllegalIssueFaults := by
  intro s i hf hi
  refine ⟨exec_busy hi hf, fun hb he hne => ?_, fun hb he hw hp => ?_, fun hb he hr hp => ?_⟩
  · exact exec_illegal hi hf hb (legalFault_disabled he (issued_ne_none hi) (issued_ne_init hne))
  · obtain ⟨d, rfl⟩ := hw
    exact exec_illegal (c := .sequence) hi hf hb (by simp [issued, legalFault, he, hp])
  · obtain rfl | rfl := hr <;> exact exec_illegal (c := .sequence) hi hf hb (by simp [issued, legalFault, he, hp])

/-- The issue step of a legal command, from the port to SEQ at the operation's first label (41_sequencer.md R131). -/
theorem step_issue_begins (h : Ready s) (hr : noResetNext s = true) (hd : decodeCmd w = .ok i)
    (hl : legalFault (issued i).1 s = none) :
    step (drivePort w s) = .next { s with
      cmdOp := cmdOpField w, cmdArg := cmdArgField w, op := (issued i).1, arg := (issued i).2, attempts := 0,
      mpc := firstLabel (issued i).1, busy := true } := by
  rw [step_drivePort h.config h.noFault hr hd, ← h.noStrobe]
  exact exec_begins (decodeCmd_isCommand hd) h.noFault h.notBusy hl

/-! ### A faulted machine -/

/-- Every instruction's meaning is a step of a live machine. -/
theorem exec_faulted (i : Instr) (h : s.fault = true) : exec i s = .fault .quiescent := by
  cases hi : i.isCommand with
  | true => rw [exec_of_isCommand hi, whenLive_faulted h]
  | false =>
    obtain ⟨v, phase, he⟩ := exec_engine hi
    rw [he, whenLive_faulted h]

theorem step_faulted (h : s.fault = true) (hc : configOk s.cfg = true) (hr : noResetNext s = true) :
    step s = .fault .quiescent := by
  rw [step, advance, if_pos hc, eventStep]
  split
  · rename_i ht
    simp [noResetNext, ht] at hr
  · exact if_pos h

/-- Settles O15: a faulted state has no instruction, and no step but the reset event. -/
theorem faultedMachineIsQuiescent : Obligations.FaultedMachineIsQuiescent :=
  fun _ h => ⟨fun i => exec_faulted i h, step_faulted h⟩

end Sys2Proof.Machine
end

section
/-! SUPPORT. One phase of the engine as SEQ runs it, in three turns: SEQ's launch, ENGINE's completion and the poll that
finds it over (40_engine.md R101, R118; 41_sequencer.md R134). -/

namespace Sys2Proof.Machine

open Host (Outcome)

variable {s : State} {ts : List Turn} {op : Op} {l l' : Label} {w : Byte} {f : Inflight} {o : Answer}
  {k : State → State}

/-! ### SEQ's turn at a label -/

/-- A launch: the label's CTRL write starts a phase, and the label's work follows. -/
theorem AtStep.step_launch (h : AtStep s op l) (hop : op ≠ .none) (ht : s.turns = .seq :: ts)
    (hw : ctrlWriteAt l = some (w, k)) (hl : launchOf w s.ph = some f) :
    step s = .next (k { s with turns := ts, ctrl := { s.ctrl.written w with int := false }, inflight := f }) := by
  rw [h.step_eq hop ht, microStep_of_ctrlWriteAt (s := { s with turns := ts }) (h.label ▸ hw)]
  exact ctrlThen_launch k h.noFault h.quiet hl

/-! ### Polls, checks and accesses of DATA -/

/-- The kinds of micro-step other than a CTRL write and INIT's writes of its settings (41_sequencer.md R137 to R148). -/
inductive Micro
  /-- a poll of INT, and the label after it -/
  | pollInt (l : Label)
  /-- a poll of STO, and the work after it -/
  | pollSto (k : State → State)
  /-- a latch of the status, and the check made with it -/
  | check (k : State → State)
  /-- a write of the operand to DATA, and the label after it -/
  | writeData (l : Label)
  /-- the end with DATA's byte as RESULT -/
  | takeData

/-- What a micro-step of this kind answers. -/
def Micro.run : Micro → State → Outcome State Fault Refusal
  | .pollInt l, s => waitUntil s.ctrl.int (go l) s
  | .pollSto k, s => waitUntil (!s.ctrl.sto) k s
  | .check k, s => whenLive s (k s.latchStatus)
  | .writeData l, s => writeThen .data s.arg (go l) s
  | .takeData, s => whenLive s (s.finish s.data)

/-- The micro-step at a label, if it is of one of these kinds (41_sequencer.md R137 to R148). -/
def microAt : Label → Option Micro
  | .init .i5 => some (.pollSto (go (.init .i6)))
  | .start .s1 => some (.pollInt (.start .s2))
  | .start .s2 => some (.check startCheck)
  | .start .s3 => some (.writeData (.start .s4))
  | .start .s5 => some (.pollInt (.start .s6))
  | .start .s6 => some (.check addrCheck)
  | .startWait .w1 => some (.pollInt (.startWait .w2))
  | .startWait .w2 => some (.check waitStartCheck)
  | .startWait .w3 => some (.writeData (.startWait .w4))
  | .startWait .w5 => some (.pollInt (.startWait .w6))
  | .startWait .w6 => some (.check waitAddrCheck)
  | .startWait .w8 => some (.pollSto retry)
  | .write .t0 => some (.writeData (.write .t1))
  | .write .t2 => some (.pollInt (.write .t3))
  | .write .t3 => some (.check writeCheck)
  | .readAck .a1 => some (.pollInt (.readAck .a2))
  | .readAck .a2 => some .takeData
  | .readNack .n1 => some (.pollInt (.readNack .n2))
  | .readNack .n2 => some .takeData
  | .stop .p1 => some (.pollSto (fin 0x00))
  | _ => none

theorem microStep_of_microAt {m : Micro} (h : microAt s.mpc = some m) : microStep s = m.run s := by
  unfold microStep
  generalize s.mpc = l at h
  unfold microAt at h
  -- one case for each label with such a micro-step, and one, closed by `cases`, for all the others
  split at h <;> cases h <;> rfl

theorem AtStep.step_micro {m : Micro} (h : AtStep s op l) (hop : op ≠ .none) (ht : s.turns = .seq :: ts)
    (hm : microAt l = some m) : step s = m.run { s with turns := ts } := by
  rw [h.step_eq hop ht, microStep_of_microAt (s := { s with turns := ts }) (h.label ▸ hm)]

theorem latchStatus_eq (s : State) : s.latchStatus = { s with twst := s.code.value } := by
  rw [← codeOf_statusByte s.code s.ps]
  rfl

theorem AtStep.step_pollInt (h : AtStep s op l) (hop : op ≠ .none) (ht : s.turns = .seq :: ts)
    (hm : microAt l = some (.pollInt l')) (hint : s.ctrl.int = true) :
    step s = .next { s with turns := ts, mpc := l' } := by
  rw [h.step_micro hop ht hm, Micro.run, hint]
  exact waitUntil_taken _ h.noFault

theorem AtStep.step_pollSto (h : AtStep s op l) (hop : op ≠ .none) (ht : s.turns = .seq :: ts)
    (hm : microAt l = some (.pollSto k)) (hsto : s.ctrl.sto = false) : step s = .next (k { s with turns := ts }) := by
  rw [h.step_micro hop ht hm, Micro.run, hsto]
  exact waitUntil_taken _ h.noFault

/-- The check is made with the status of this step. -/
theorem AtStep.step_check (h : AtStep s op l) (hop : op ≠ .none) (ht : s.turns = .seq :: ts)
    (hm : microAt l = some (.check k)) : step s = .next (k { s with turns := ts, twst := s.code.value }) := by
  rw [h.step_micro hop ht hm, Micro.run, latchStatus_eq]
  exact whenLive_live h.noFault

/-- While INT is set the operand is stored (40_engine.md R109). -/
theorem AtStep.step_writeData (h : AtStep s op l) (hop : op ≠ .none) (ht : s.turns = .seq :: ts)
    (hm : microAt l = some (.writeData l')) (hint : s.ctrl.int = true) :
    step s = .next { s with turns := ts, data := s.arg, ctrl := { s.ctrl with wc := false }, mpc := l' } := by
  rw [h.step_micro hop ht hm, Micro.run]
  exact writeThen_data s.arg _ h.noFault h.quiet hint

/-- The byte that stands in DATA is taken whatever the status (41_sequencer.md R149). -/
theorem AtStep.step_takeData (h : AtStep s op l) (hop : op ≠ .none) (ht : s.turns = .seq :: ts)
    (hm : microAt l = some .takeData) :
    step s = .next { s with turns := ts, result := s.data, op := .none, busy := false } := by
  rw [h.step_micro hop ht hm, Micro.run]
  exact whenLive_live h.noFault

/-! ### A phase from its launch to the end of its poll -/

/-- SEQ has launched the phase `f` with the CTRL value `w` and polls for its end at `l`. -/
def State.launched (s : State) (w : Byte) (f : Inflight) (l : Label) (ts : List Turn) : State :=
  { s with turns := ts, ctrl := { s.ctrl.written w with int := false }, inflight := f, mpc := l }

/-- A START, SEND or RECV phase whose completion leaves DATA, CODE, ph, the trace and the record of a failed READ as
given. -/
theorem run_phase {m : Label} {d : Byte} {c : Code} {p : Phase} {tr : List Event} {b : Bool} (h : AtStep s op l)
    (hop : op ≠ .none) (ht : s.turns = .seq :: .engine o :: .seq :: ts) (hw : ctrlWriteAt l = some (w, go l'))
    (hp : microAt l' = some (.pollInt m)) (hl : launchOf w s.ph = some f) (ha : admitted s.cfg f o = true)
    (hx : complete o (s.launched w f l' (.seq :: ts)) =
      ({ s.launched w f l' (.seq :: ts) with data := d, code := c, ph := p, trace := tr, readFailed := b }).phaseDone) :
    runSteps 3 s = .next { s with
      turns := ts, mpc := m, ctrl := { s.ctrl.written w with int := true }, data := d, code := c, ph := p, trace := tr,
      readFailed := b } := by
  have ⟨hc, hf, hi, ho, _, hb, hq⟩ := h
  have hdone : step (s.launched w f l' (.engine o :: .seq :: ts)) = .next _ := step_complete hc hf hi rfl ha hx
  calc runSteps 3 s
    _ = runSteps 2 (s.launched w f l' (.engine o :: .seq :: ts)) := run_succ (h.step_launch hop ht hw hl)
    _ = runSteps 1 _ := run_succ hdone
    _ = .next _ := run_succ (AtStep.step_pollInt ⟨hc, hf, hi, ho, rfl, hb, rfl⟩ hop rfl hp rfl)
    _ = _ := by rw [hq]; rfl

/-- An abnormal outcome of any of these phases. -/
theorem run_phase_abnormal {m : Label} {a : Abnormal} (h : AtStep s op l) (hop : op ≠ .none)
    (ht : s.turns = .seq :: .engine (.abnormal a) :: .seq :: ts) (hw : ctrlWriteAt l = some (w, go l'))
    (hp : microAt l' = some (.pollInt m)) (hl : launchOf w s.ph = some f) (ha : s.cfg.admitAbnormal = true)
    (hn : f ≠ .none) (hs : f ≠ .stop) :
    runSteps 3 s = .next { s with
      turns := ts, mpc := m, ctrl := { s.ctrl.written w with int := true }, code := a.code, ph := .idle,
      trace := s.trace ++ [.abnormal a], readFailed := f.isRecv || s.readFailed } :=
  run_phase h hop ht hw hp hl ((admitted_abnormal s.cfg a hn hs).trans ha) (complete_abnormal a hn hs)

/-- A STOP, with the work that follows its poll (40_engine.md R120). -/
theorem run_stop (h : AtStep s op l) (hop : op ≠ .none) (ht : s.turns = .seq :: .engine o :: .seq :: ts)
    (hw : ctrlWriteAt l = some (0x94, go l')) (hp : microAt l' = some (.pollSto k)) :
    runSteps 3 s = .next (k { s with
      turns := ts, mpc := l',
      ctrl := { s.ctrl with int := false, ea := false, sta := false, sto := false, en := true, ie := false },
      trace := if s.ph = .idle then s.trace else s.trace ++ [.stop], ph := .idle, code := .noInfo }) := by
  have ⟨hc, hf, hi, ho, _, hb, hq⟩ := h
  have hdone : step (s.launched 0x94 .stop l' (.engine o :: .seq :: ts)) = .next _ :=
    stopCompletion _ _ _ hc hf hi rfl rfl
  calc runSteps 3 s
    _ = runSteps 2 (s.launched 0x94 .stop l' (.engine o :: .seq :: ts)) := run_succ (h.step_launch hop ht hw rfl)
    _ = runSteps 1 _ := run_succ hdone
    _ = .next _ := run_succ (AtStep.step_pollSto ⟨hc, hf, hi, ho, rfl, hb, rfl⟩ hop rfl hp rfl)
    _ = _ := by rw [hq]; rfl

end Sys2Proof.Machine
end

section
/-! SUPPORT. INIT with its optional STOP, INIT run twice, and STOP (41_sequencer.md R131, R137, R138, R148, R150). -/

namespace Sys2Proof.Machine

open Host (Outcome)

variable {s : State} {ts : List Turn} {o : Answer}

/-- INIT with its optional STOP, from the issue to its end. -/
theorem run_init_stop (h : Ready s) (hs : s.cfg.initStopWait = true) :
    runSteps 9 (drivePort 0x0100
        { s with turns := .seq :: .seq :: .seq :: .seq :: .seq :: .engine o :: .seq :: .seq :: ts }) =
      .next { s with
        turns := ts, cmdOp := 0x01, cmdArg := 0x00, arg := 0x00, attempts := 0, mpc := .init .i6,
        puSda := true, puScl := true, ps := 0, bitrate := divisorByte s.cfg,
        ctrl := { s.ctrl with int := false, ea := true, sta := false, sto := false, en := true, ie := false },
        trace := if s.ph = .idle then s.trace else s.trace ++ [.stop], ph := .idle, code := .noInfo,
        result := 0x00 } := by
  have ⟨hc, hf, hi, hb, ho, hq⟩ := h
  have hl : (if s.cfg.initStopWait = true then InitLabel.i4 else .i6) = .i4 := if_pos hs
  rw [run_add (j := 5) (k := 4) (run_init_issued h), hl]
  refine Eq.trans (run_add (j := 3) (k := 1) (run_stop ⟨hc, hf, hi, rfl, rfl, rfl, hq⟩ nofun rfl rfl rfl)) ?_
  refine Eq.trans (run_succ (step_init_i6 ⟨hc, hf, hi, rfl, rfl, rfl, hq⟩ rfl)) ?_
  rw [run_zero, ho, hb]
  rfl

/-- Settles O36: INIT's run to I4, the STOP and the configuration write. -/
theorem initWithStopRuns : Obligations.InitWithStopRuns :=
  fun _ _ _ h hs => ⟨.init .i6, divisorByte _, divisorByte_toNat h.config, run_init_stop h hs⟩

/-- Settles O37: the second INIT writes what the first wrote, and finds the bus as the first left it. -/
theorem initIsIdempotent : Obligations.InitIsIdempotent := by
  intro s t u o o' h sched ht hu
  have ⟨hc, hf, hi, hb, ho, hq⟩ := h
  cases hs : s.cfg.initStopWait with
  | false =>
    simp only [sched, hs, Bool.false_eq_true, if_false] at ht hu
    obtain rfl := Outcome.next.inj (ht.symm.trans (run_init h hs))
    obtain rfl := Outcome.next.inj (hu.symm.trans (run_init ⟨hc, hf, hi, hb, ho, hq⟩ hs))
    exact ⟨rfl, rfl, rfl, rfl, rfl, rfl, rfl, rfl, rfl, rfl, hb, nofun⟩
  | true =>
    simp only [sched, hs, if_true] at ht hu
    obtain rfl := Outcome.next.inj (ht.symm.trans (run_init_stop h hs))
    obtain rfl := Outcome.next.inj (hu.symm.trans (run_init_stop ⟨hc, hf, hi, hb, ho, hq⟩ hs))
    exact ⟨rfl, rfl, rfl, rfl, rfl, rfl, rfl, rfl, rfl, rfl, hb, fun _ => rfl⟩

/-- Settles O45: the issue and the STOP. -/
theorem stopRuns : Obligations.StopRuns := by
  intro s o rest h he
  have ⟨hc, hf, hi, hb, ho, hq⟩ := h
  refine ⟨.stop .p1, ?_⟩
  refine Eq.trans (run_succ (step_issue_begins (i := .stop) ⟨hc, hf, hi, hb, ho, hq⟩ rfl rfl (if_pos he))) ?_
  refine Eq.trans (run_stop ⟨hc, hf, hi, rfl, rfl, rfl, hq⟩ nofun rfl rfl rfl) ?_
  rw [ho, hb]
  rfl

end Sys2Proof.Machine
end

section
/-! SUPPORT. The START and the address byte of START and START_WAIT: S0 to S6 and W0 to W6, which differ in what follows
the two checks alone (41_sequencer.md R139, R143). -/

namespace Sys2Proof.Machine

open Host (Outcome)

variable {s : State} {ts : List Turn} {op : Op} {l : StartLabel → Label}

/-! ### The labels -/

/-- START_WAIT's label for each of START's (41_sequencer.md R143). -/
def StartLabel.toWait : StartLabel → WaitLabel
  | .s0 => .w0
  | .s1 => .w1
  | .s2 => .w2
  | .s3 => .w3
  | .s4 => .w4
  | .s5 => .w5
  | .s6 => .w6

/-- The labels of an operation that sends a START and an address byte, up to its address check. -/
structure SendsAddress (op : Op) (l : StartLabel → Label) : Prop where
  isOp      : op ≠ .none
  start     : ctrlWriteAt (l .s0) = some (0xA4, go (l .s1))
  startPoll : microAt (l .s1) = some (.pollInt (l .s2))
  check     : ∃ k, microAt (l .s2) = some (.check k) ∧
    ∀ u : State, startFail u.twst = false → k u = u.goto (l .s3)
  data      : microAt (l .s3) = some (.writeData (l .s4))
  send      : ctrlWriteAt (l .s4) = some (0x84, go (l .s5))
  sendPoll  : microAt (l .s5) = some (.pollInt (l .s6))

theorem sendsAddress_start : SendsAddress .start .start where
  isOp := nofun
  start := rfl
  startPoll := rfl
  check := ⟨startCheck, rfl, fun u hc => by simp only [startCheck, hc, Bool.false_eq_true, if_false]⟩
  data := rfl
  send := rfl
  sendPoll := rfl

theorem sendsAddress_startWait : SendsAddress .startWait (fun x => .startWait x.toWait) where
  isOp := nofun
  start := rfl
  startPoll := rfl
  check := ⟨waitStartCheck, rfl, fun u hc => by
    simp only [waitStartCheck, hc, Bool.false_eq_true, if_false, StartLabel.toWait]⟩
  data := rfl
  send := rfl
  sendPoll := rfl

/-! ### The START -/

/-- The status of a START by the phase state it is sent in (40_engine.md R112). -/
def startCode (p : Phase) : Code := if p = .idle then .start else .repStart

/-- The event of a START by the phase state it is sent in (40_engine.md R112). -/
def startEvent (p : Phase) : Event := if p = .idle then .start else .repStart

theorem startOk_eq (s : State) : startOk s = { s with
    code := startCode s.ph, ph := .started, trace := s.trace ++ [startEvent s.ph] } := by
  unfold startOk startCode startEvent
  split <;> rfl

theorem startFail_startCode (p : Phase) : startFail (startCode p).value = false := by
  unfold startCode
  split <;> rfl

/-- S0 to S2 with the START answered (41_sequencer.md R139). -/
theorem run_start_ok (hl : SendsAddress op l) (h : AtStep s op (l .s0))
    (ht : s.turns = .seq :: .engine .ok :: .seq :: ts) :
    runSteps 3 s = .next { s with
      turns := ts, mpc := l .s2, ctrl := { s.ctrl.written 0xA4 with int := true }, code := startCode s.ph,
      ph := .started, trace := s.trace ++ [startEvent s.ph] } :=
  run_phase h hl.isOp ht hl.start hl.startPoll rfl rfl
    ((complete_start rfl).trans (congrArg State.phaseDone (startOk_eq _)))

/-- S0 to S2 with a START that ends abnormally (40_engine.md R113). -/
theorem run_start_abnormal {c : Abnormal} (hl : SendsAddress op l) (h : AtStep s op (l .s0))
    (ht : s.turns = .seq :: .engine (.abnormal c) :: .seq :: ts) (ha : s.cfg.admitAbnormal = true) :
    runSteps 3 s = .next { s with
      turns := ts, mpc := l .s2, ctrl := { s.ctrl.written 0xA4 with int := true }, code := c.code, ph := .idle,
      trace := s.trace ++ [.abnormal c] } :=
  run_phase_abnormal h hl.isOp ht hl.start hl.startPoll rfl ha nofun nofun

/-! ### The checks and the address byte -/

theorem AtStep.step_startCheck_passed (hl : SendsAddress op l) (h : AtStep s op (l .s2)) (ht : s.turns = .seq :: ts)
    (hc : startFail s.code.value = false) :
    step s = .next { s with turns := ts, twst := s.code.value, mpc := l .s3 } := by
  obtain ⟨k, hk, hpass⟩ := hl.check
  rw [h.step_check hl.isOp ht hk, hpass _ hc]
  rfl

/-- S0 to S3 with the START answered: SEQ stands before the launch of the address byte. -/
theorem run_to_address (hl : SendsAddress op l) (h : AtStep s op (l .s0))
    (ht : s.turns = .seq :: .engine .ok :: .seq :: .seq :: .seq :: ts) :
    runSteps 5 s = .next { s with
      turns := ts, mpc := l .s4, twst := (startCode s.ph).value,
      ctrl := { int := true, ea := false, sta := true, sto := false, wc := false, en := true, ie := false },
      data := s.arg, code := startCode s.ph, ph := .started, trace := s.trace ++ [startEvent s.ph] } := by
  have ⟨hc, hf, hi, ho, _, hb, hq⟩ := h
  refine Eq.trans (run_add (j := 3) (k := 2) (run_start_ok hl h ht)) ?_
  refine Eq.trans (run_succ (AtStep.step_startCheck_passed hl ⟨hc, hf, hi, ho, rfl, hb, hq⟩ rfl
    (startFail_startCode s.ph))) ?_
  exact run_succ (AtStep.step_writeData ⟨hc, hf, hi, ho, rfl, hb, hq⟩ hl.isOp rfl hl.data rfl)

/-- S0 to S5 with the address byte answered (40_engine.md R114). -/
theorem run_address_answered (a : Ack) (hl : SendsAddress op l) (h : AtStep s op (l .s0))
    (ht : s.turns = .seq :: .engine .ok :: .seq :: .seq :: .seq :: .seq :: .engine (.bit a) :: .seq :: ts) :
    runSteps 8 s = .next { s with
      turns := ts, mpc := l .s6, twst := (startCode s.ph).value,
      ctrl := { int := true, ea := false, sta := false, sto := false, wc := false, en := true, ie := false },
      data := s.arg, code := addrCode (isRead s.arg) a, ph := addrPhase (isRead s.arg) a,
      trace := s.trace ++ [startEvent s.ph, .addr s.arg a] } := by
  have ⟨hc, hf, hi, ho, _, hb, hq⟩ := h
  rw [run_add (j := 5) (k := 3) (run_to_address hl h ht)]
  refine Eq.trans (run_phase ⟨hc, hf, hi, ho, rfl, hb, hq⟩ hl.isOp rfl hl.send hl.sendPoll rfl rfl
    (complete_send a rfl)) ?_
  rw [List.append_cons s.trace _ [.addr s.arg a]]
  rfl

/-- S0 to S5 with an address byte that ends abnormally (40_engine.md R113). -/
theorem run_address_abnormal {c : Abnormal} (hl : SendsAddress op l) (h : AtStep s op (l .s0))
    (ht : s.turns = .seq :: .engine .ok :: .seq :: .seq :: .seq :: .seq :: .engine (.abnormal c) :: .seq :: ts)
    (ha : s.cfg.admitAbnormal = true) :
    runSteps 8 s = .next { s with
      turns := ts, mpc := l .s6, twst := (startCode s.ph).value,
      ctrl := { int := true, ea := false, sta := false, sto := false, wc := false, en := true, ie := false },
      data := s.arg, code := c.code, ph := .idle, trace := s.trace ++ [startEvent s.ph, .abnormal c] } := by
  have ⟨hc, hf, hi, ho, _, hb, hq⟩ := h
  rw [run_add (j := 5) (k := 3) (run_to_address hl h ht)]
  refine Eq.trans (run_phase_abnormal ⟨hc, hf, hi, ho, rfl, hb, hq⟩ hl.isOp rfl hl.send hl.sendPoll rfl ha nofun
    nofun) ?_
  rw [List.append_cons s.trace _ [.abnormal c]]
  rfl

end Sys2Proof.Machine
end

section
/-! SUPPORT. START: its two checks, its early finish and its runs (41_sequencer.md R139 to R141, R150). -/

namespace Sys2Proof.Machine

open Host (Outcome)

variable {s : State} {ts : List Turn}

/-! ### The checks -/

theorem addrFail_corrected_iff (t : Byte) :
    addrFail .corrected t = true ↔ t ≠ Code.mtSlaAck.value ∧ t ≠ Code.mrSlaAck.value := by
  simp [addrFail]

theorem addrFail_original_iff (t : Byte) :
    addrFail .original t = true ↔ t ≠ Code.mtSlaAck.value ∨ t ≠ Code.mrSlaAck.value := by
  simp only [addrFail, Bool.or_eq_true, bne_iff_ne]

/-- The two acknowledged statuses differ, so no status is both (41_sequencer.md R141). -/
theorem addrFail_original (t : Byte) : addrFail .original t = true := by
  rw [addrFail_original_iff, ← not_and_or]
  rintro ⟨rfl, h⟩
  exact absurd h (by decide)

/-- S6 finishes START with the address check's return code. -/
theorem step_start_s6 (h : AtStep s .start (.start .s6)) (ht : s.turns = .seq :: ts) :
    step s = .next { s with
      turns := ts, twst := s.code.value, result := returnCode (addrFail s.cfg.ackCheck s.code.value),
      op := .none, busy := false } :=
  h.step_check nofun ht rfl

/-- Settles O32: the two forms on every status, and S6. -/
theorem addressCheckForms : Obligations.AddressCheckForms := by
  refine ⟨rfl, fun t => ⟨addrFail_corrected_iff t, addrFail_original_iff t, addrFail_original t⟩,
    fun s ts h ht => ⟨_, step_start_s6 h ht, rfl, rfl, ?_⟩⟩
  rw [regRead_status, codeOf_statusByte]
  rfl

theorem startFail_eq_false_iff (t : Byte) :
    startFail t = false ↔ t = Code.start.value ∨ t = Code.repStart.value := by
  simp only [startFail, Bool.and_eq_false_iff, bne_eq_false_iff_eq]

theorem startFail_abnormal (c : Abnormal) : startFail c.code.value = true := by
  cases c <;> rfl

/-- S2 finishes START early when the start-phase check fails. -/
theorem step_start_s2_failed (h : AtStep s .start (.start .s2)) (ht : s.turns = .seq :: ts)
    (hc : startFail s.code.value = true) :
    step s = .next { s with turns := ts, twst := s.code.value, result := 0x01, op := .none, busy := false } := by
  rw [h.step_check nofun ht rfl, startCheck, if_pos hc]
  rfl

/-- A turn of ENGINE that completes a START: with OK its status passes the start-phase check, and after an abnormal
outcome it fails it with the block off the bus (40_engine.md R112, R113). -/
theorem engineStep_start {o : Answer} (hs : s.inflight = .start) (hd : (engineStep o s).inflight = .none) :
    (o = .ok ∧ startFail (engineStep o s).code.value = false) ∨
      ∃ c, o = .abnormal c ∧ startFail (engineStep o s).code.value = true ∧ (engineStep o s).ph = .idle := by
  obtain h | ⟨h', -⟩ | ⟨c, rfl, -, -, -, h⟩ | ⟨-, rfl, h⟩ | ⟨_, h', -⟩ | ⟨_, h', -⟩ | ⟨_, h', -⟩ :=
    engineStep_cases o s
  · rw [h, hs] at hd
    cases hd
  · cases hs.symm.trans h'
  · exact .inr ⟨c, rfl, h ▸ startFail_abnormal c, h ▸ rfl⟩
  · exact .inl ⟨rfl, by rw [h, startOk_eq]; exact startFail_startCode s.ph⟩
  all_goals cases hs.symm.trans h'

/-- Settles O33: the statuses that pass, the completion of a START, and S2. -/
theorem startPhaseCheck : Obligations.StartPhaseCheck := by
  refine ⟨startFail_eq_false_iff, fun s t o ts hf hi hs ht hst hd => ?_, fun s ts h ht hc => ?_⟩
  · obtain ⟨hcfg, -⟩ := step_cases hst
    cases (step_engine o hcfg hf hi ht).symm.trans hst
    rw [regRead_status, codeOf_statusByte]
    obtain ⟨rfl, hok⟩ | ⟨c, rfl, hfail, hp⟩ := engineStep_start (s := { s with turns := ts }) hs hd
    · simp [hok]
    · simp [hfail, hp]
  · rw [regRead_status, codeOf_statusByte] at hc ⊢
    exact ⟨s.mpc, step_start_s2_failed h ht hc⟩

/-! ### START's runs -/

/-- The issue step of START (41_sequencer.md R131). -/
theorem step_issue_start (b : Byte) (h : Ready s) (hr : noResetNext s = true) (he : s.ctrl.en = true) :
    step (drivePort (cmdOf 0x02 b) s) = .next { s with
      cmdOp := 0x02, cmdArg := b, op := .start, arg := b, attempts := 0, mpc := .start .s0, busy := true } := by
  rw [step_issue_begins h hr (decodeCmd_start b) (if_pos he), cmdOpField_cmdOf, cmdArgField_cmdOf]
  rfl

theorem returnCode_addrFail (k : AckCheck) (r : Bool) (a : Ack) :
    returnCode (addrFail k (addrCode r a).value) = if k = .corrected ∧ a = .ack then 0x00 else 0x01 := by
  cases k <;> cases r <;> cases a <;> decide

theorem addrFail_abnormal (k : AckCheck) (c : Abnormal) : addrFail k c.code.value = true := by
  cases k <;> cases c <;> decide

/-- Settles O38: the issue, S0 to S5 with the address byte answered, and S6. -/
theorem startRuns : Obligations.StartRuns := by
  intro s b a rest h he
  have ⟨hc, hf, hi, hb, ho, hq⟩ := h
  refine ⟨.start .s6, ?_⟩
  refine Eq.trans (run_succ (step_issue_start b ⟨hc, hf, hi, hb, ho, hq⟩ rfl he)) ?_
  refine Eq.trans (run_add (j := 8) (k := 1)
    (run_address_answered a sendsAddress_start ⟨hc, hf, hi, rfl, rfl, rfl, hq⟩ rfl)) ?_
  refine Eq.trans (run_succ (step_start_s6 ⟨hc, hf, hi, rfl, rfl, rfl, hq⟩ rfl)) ?_
  rw [ho, hb, ← returnCode_addrFail s.cfg.ackCheck (b.getLsbD 0) a]
  rfl

/-- Settles O39: the early finish at S2 after an abnormal START, and S6 after an abnormal address byte. -/
theorem startFailsAfterAbnormal : Obligations.StartFailsAfterAbnormal := by
  intro s b c rest h he ha
  have ⟨hc, hf, hi, hb, ho, hq⟩ := h
  refine ⟨⟨.start .s2, ?_⟩, ⟨.start .s6, ?_⟩⟩
  · refine Eq.trans (run_succ (step_issue_start b ⟨hc, hf, hi, hb, ho, hq⟩ rfl he)) ?_
    refine Eq.trans (run_add (j := 3) (k := 1)
      (run_start_abnormal sendsAddress_start ⟨hc, hf, hi, rfl, rfl, rfl, hq⟩ rfl ha)) ?_
    refine Eq.trans (run_succ (step_start_s2_failed ⟨hc, hf, hi, rfl, rfl, rfl, hq⟩ rfl (startFail_abnormal c))) ?_
    rw [ho, hb]
    rfl
  · refine Eq.trans (run_succ (step_issue_start b ⟨hc, hf, hi, hb, ho, hq⟩ rfl he)) ?_
    refine Eq.trans (run_add (j := 8) (k := 1)
      (run_address_abnormal sendsAddress_start ⟨hc, hf, hi, rfl, rfl, rfl, hq⟩ rfl ha)) ?_
    refine Eq.trans (run_succ (step_start_s6 ⟨hc, hf, hi, rfl, rfl, rfl, hq⟩ rfl)) ?_
    rw [ho, hb]
    simp only [addrFail_abnormal]
    rfl

end Sys2Proof.Machine
end

section
/-! SUPPORT. START_WAIT: its retry, its checks and its attempts (41_sequencer.md R142 to R144, R150). -/

namespace Sys2Proof.Machine

open Host (Outcome)

variable {s t : State} {ts : List Turn} {k : State → State}

/-! ### The retry -/

theorem retry_unbounded (h : s.cfg.waitBound = none) :
    retry s = { s with attempts := s.attempts + 1, mpc := .startWait .w0 } := by
  rw [retry, h]
  rfl

theorem retry_at_bound {n : Nat} (h : s.cfg.waitBound = some n) (hn : n ≤ s.attempts + 1) :
    retry s = { s with attempts := s.attempts + 1, result := 0x01, op := .none, busy := false } := by
  simp only [retry, h, hn, if_true]
  rfl

theorem retry_below_bound {n : Nat} (h : s.cfg.waitBound = some n) (hn : s.attempts + 1 < n) :
    retry s = { s with attempts := s.attempts + 1, mpc := .startWait .w0 } := by
  simp only [retry, h, Nat.not_le.mpr hn, if_false]
  rfl

/-! ### No end with 0x01 without a bound -/

/-- A register access leaves the operation in progress alone. -/
theorem afterAccess_op {r : Outcome State Fault Refusal} (h : afterAccess r k = .next t)
    (hr : ∀ u, r = .next u → u.outsideSeq = s.outsideSeq) (hk : ∀ u, (k u).op = u.op) : t.op = s.op := by
  obtain ⟨u, hu, rfl⟩ := afterAccess_next.mp h
  have hop : u.op = s.op := (congrArg State.op (hr u hu) :)
  split
  · exact hop
  · rw [hk, hop]

theorem waitUntil_op {c : Bool} (h : waitUntil c k s = .next t) (hk : (k s).op = s.op) : t.op = s.op := by
  obtain ⟨-, rfl⟩ := whenLive_next.mp h
  split
  · exact hk
  · rfl

theorem microStep_startWait {l : WaitLabel} (h : s.mpc = .startWait l) : microStep s = microStartWait l s := by
  rw [microStep, h]

/-- Without a bound a micro-step of START_WAIT goes on, or finishes at W6 with 0x00. -/
theorem microStartWait_unbounded {l : WaitLabel} (hb : s.cfg.waitBound = none) (h : microStartWait l s = .next t) :
    t.op = s.op ∨ t.result = 0x00 := by
  cases l with
  | w0 | w4 | w7 => exact .inl (afterAccess_op h (fun _ => engineWrite_outsideSeq) fun _ => rfl)
  | w1 | w5 => exact .inl (waitUntil_op h rfl)
  | w2 =>
    obtain ⟨-, rfl⟩ := whenLive_next.mp h
    unfold waitStartCheck
    split
    · exact .inl (by rw [retry_unbounded (s := s.latchStatus) hb]; rfl)
    · exact .inl rfl
  | w3 =>
    refine .inl (afterAccess_op h (fun u hu => ?_) fun _ => rfl)
    rw [(whenLive_next.mp hu).2, regWrite_outsideSeq]
  | w6 =>
    obtain ⟨-, rfl⟩ := whenLive_next.mp h
    unfold waitAddrCheck
    split
    · exact .inl rfl
    · exact .inr rfl
  | w8 => exact .inl (waitUntil_op h (by rw [retry_unbounded hb]))

/-- Settles O34: `retry` by the bound, and START_WAIT's micro-steps without one. -/
theorem retryStep : Obligations.RetryStep := by
  refine ⟨rfl, fun s => ⟨retry_unbounded, fun n hb hn => ⟨s.mpc, retry_at_bound hb hn⟩,
    fun n hb hn => retry_below_bound hb hn⟩, fun s t l ts hb hi ht ho hm hs hend => ?_⟩
  obtain ⟨hc, ⟨_, ht', -⟩ | ⟨hf, -⟩⟩ := step_cases hs
  · cases ht.symm.trans ht'
  · have hop : s.op ≠ .none := by simp [ho]
    rw [step_seq hc hf hi ht, seqStep, if_neg hop, microStep_startWait (s := { s with turns := ts }) hm] at hs
    exact (microStartWait_unbounded (s := { s with turns := ts }) hb hs).resolve_left fun h => hop (h.symm.trans hend)

/-! ### The checks -/

/-- W2 retries without a STOP when the start-phase check fails. -/
theorem step_startWait_w2_failed (h : AtStep s .startWait (.startWait .w2)) (ht : s.turns = .seq :: ts)
    (hc : startFail s.code.value = true) : step s = .next (retry { s with turns := ts, twst := s.code.value }) := by
  rw [h.step_check nofun ht rfl, waitStartCheck, if_pos hc]

/-- W6 goes on to the STOP for a status in the NACK set. -/
theorem step_startWait_w6_nacked (h : AtStep s .startWait (.startWait .w6)) (ht : s.turns = .seq :: ts)
    (hc : nackRetry s.cfg.nackSet s.code.value = true) :
    step s = .next { s with turns := ts, twst := s.code.value, mpc := .startWait .w7 } := by
  rw [h.step_check nofun ht rfl, waitAddrCheck, if_pos hc]
  rfl

/-- W6 finishes START_WAIT with success for a status outside the NACK set. -/
theorem step_startWait_w6_done (h : AtStep s .startWait (.startWait .w6)) (ht : s.turns = .seq :: ts)
    (hc : nackRetry s.cfg.nackSet s.code.value = false) :
    step s = .next { s with turns := ts, twst := s.code.value, result := 0x00, op := .none, busy := false } := by
  rw [h.step_check nofun ht rfl, waitAddrCheck, if_neg (by simp [hc])]
  rfl

theorem nackRetry_ack (k : NackSet) (r : Bool) : nackRetry k (addrCode r .ack).value = false := by
  cases k <;> cases r <;> decide

theorem nackRetry_abnormal (k : NackSet) (c : Abnormal) : nackRetry k c.code.value = false := by
  cases k <;> cases c <;> decide

/-- Both NACK sets hold the NACK of SLA+W, and the default alone that of SLA+R (41_sequencer.md R143). -/
theorem nackRetry_nack (k : NackSet) (r : Bool) :
    nackRetry k (addrCode r .nack).value = true ↔ k = .addressNacks ∨ r = false := by
  cases k <;> cases r <;> decide

theorem addrCode_nack (r : Bool) : addrCode r .nack = if r then .mrSlaNack else .mtSlaNack := by
  cases r <;> rfl

/-! ### The attempts -/

/-- Settles O40: the attempt up to W6, where an acknowledged address is outside both NACK sets. -/
theorem startWaitAttemptSucceeds : Obligations.StartWaitAttemptSucceeds := by
  intro s rest h
  have ⟨hc, hf, hi, ho, hm, hb, hq⟩ := h
  refine ⟨.startWait .w6, ?_⟩
  refine Eq.trans (run_add (j := 8) (k := 1)
    (run_address_answered .ack sendsAddress_startWait ⟨hc, hf, hi, ho, hm, hb, hq⟩ rfl)) ?_
  exact run_succ (step_startWait_w6_done ⟨hc, hf, hi, ho, rfl, hb, hq⟩ rfl (nackRetry_ack _ _))

/-- Settles O42: W2 after an abnormal START, and W6 after an abnormal address byte. -/
theorem startWaitAfterAbnormal : Obligations.StartWaitAfterAbnormal := by
  intro s c rest h ha
  have ⟨hc, hf, hi, ho, hm, hb, hq⟩ := h
  refine ⟨⟨.startWait .w2, ?_⟩, ⟨.startWait .w6, ?_⟩⟩
  · refine Eq.trans (run_add (j := 3) (k := 1)
      (run_start_abnormal sendsAddress_startWait ⟨hc, hf, hi, ho, hm, hb, hq⟩ rfl ha)) ?_
    exact run_succ (step_startWait_w2_failed ⟨hc, hf, hi, ho, rfl, hb, hq⟩ rfl (startFail_abnormal c))
  · refine Eq.trans (run_add (j := 8) (k := 1)
      (run_address_abnormal sendsAddress_startWait ⟨hc, hf, hi, ho, hm, hb, hq⟩ rfl ha)) ?_
    exact run_succ (step_startWait_w6_done ⟨hc, hf, hi, ho, rfl, hb, hq⟩ rfl (nackRetry_abnormal _ _))

/-- Settles O41: W6 by the NACK set, and the STOP at W7 and W8 before the retry. -/
theorem startWaitNackedAttemptRetries : Obligations.StartWaitNackedAttemptRetries := by
  intro s o rest h
  have ⟨hc, hf, hi, ho, hm, hb, hq⟩ := h
  refine ⟨fun hset => ⟨.startWait .w8, ?_⟩, fun hset hr => ⟨.startWait .w6, ?_⟩⟩
  · refine Eq.trans (run_add (j := 8) (k := 4)
      (run_address_answered .nack sendsAddress_startWait ⟨hc, hf, hi, ho, hm, hb, hq⟩ rfl)) ?_
    refine Eq.trans (run_succ (step_startWait_w6_nacked ⟨hc, hf, hi, ho, rfl, hb, hq⟩ rfl
      ((nackRetry_nack _ _).mpr hset))) ?_
    refine Eq.trans (run_stop ⟨hc, hf, hi, ho, rfl, hb, hq⟩ nofun rfl rfl rfl) ?_
    rw [← addrCode_nack, if_neg (addrPhase_ne (isRead s.arg) .nack).2, List.append_assoc]
    rfl
  · refine Eq.trans (run_add (j := 8) (k := 1)
      (run_address_answered .nack sendsAddress_startWait ⟨hc, hf, hi, ho, hm, hb, hq⟩ rfl)) ?_
    have hr : isRead s.arg = true := hr
    refine Eq.trans (run_succ (step_startWait_w6_done ⟨hc, hf, hi, ho, rfl, hb, hq⟩ rfl ?_)) ?_
    · simp [Bool.eq_false_iff, nackRetry_nack, hset, hr]
    · rw [hr]
      rfl

end Sys2Proof.Machine
end

section
/-! SUPPORT. WRITE, READ_ACK and READ_NACK from the issue to their end (41_sequencer.md R145 to R147, R149, R150). -/

namespace Sys2Proof.Machine

variable {s : State} {ts : List Turn} {o : Answer}

/-! ### WRITE -/

/-- What an answer to a data byte leaves of CODE, ph and the trace (40_engine.md R113, R115). -/
theorem complete_data (s : State) (d : Byte) (ha : admitted s.cfg .send o = true) :
    ∃ (c : Code) (p : Phase) (tr : List Event),
      (∀ u : State, u.inflight = .send → u.ph = .mt → u.data = d → u.trace = s.trace →
        complete o u = ({ u with code := c, ph := p, trace := tr }).phaseDone) ∧
      (∀ a, o = .bit a → p = .mt ∧ tr = s.trace ++ [.tx d a] ∧ c = dataCode a) ∧
      (∀ a, o = .abnormal a → p = .idle ∧ tr = s.trace ++ [.abnormal a] ∧ c = a.code) := by
  cases o with
  | ok | byte => cases ha
  | bit a =>
    refine ⟨dataCode a, .mt, s.trace ++ [.tx d a], fun u hf hp hd htr => ?_,
      by rintro _ ⟨⟩; exact ⟨rfl, rfl, rfl⟩, nofun⟩
    rw [complete_send a hf, byteSent, if_neg (by simp [hp]), ← hd, ← htr]
    rfl
  | abnormal a =>
    refine ⟨a.code, .idle, s.trace ++ [.abnormal a], fun u hf _ _ htr => ?_, nofun,
      by rintro _ ⟨⟩; exact ⟨rfl, rfl, rfl⟩⟩
    rw [complete_abnormal a (by simp [hf]) (by simp [hf]), State.abnormal, hf, ← htr]
    rfl

/-- T0 to T3: from the first label of WRITE to its end. -/
theorem run_write {c : Code} {p : Phase} {tr : List Event} (h : AtStep s .write (.write .t0))
    (ht : s.turns = .seq :: .seq :: .engine o :: .seq :: .seq :: ts) (hint : s.ctrl.int = true) (hp : s.ph = .mt)
    (ha : admitted s.cfg .send o = true)
    (hx : ∀ u : State, u.inflight = .send → u.ph = .mt → u.data = s.arg → u.trace = s.trace →
      complete o u = ({ u with code := c, ph := p, trace := tr }).phaseDone) :
    runSteps 5 s = .next { s with
      turns := ts, mpc := .write .t3, data := s.arg, twst := c.value,
      ctrl := { int := true, ea := false, sta := false, sto := false, wc := false, en := true, ie := false },
      code := c, ph := p, trace := tr, result := returnCode (writeFail c.value), op := .none, busy := false } := by
  have ⟨hc, hf, hi, ho, _, hb, hq⟩ := h
  refine Eq.trans (run_succ (h.step_writeData nofun ht rfl hint)) ?_
  refine Eq.trans (run_add (j := 3) (k := 1) (run_phase (f := .send) ⟨hc, hf, hi, ho, rfl, hb, hq⟩ nofun rfl rfl rfl
    (by rw [hp]; rfl) ha (hx _ rfl hp rfl rfl))) ?_
  refine Eq.trans (run_succ (AtStep.step_check ⟨hc, hf, hi, ho, rfl, hb, hq⟩ nofun rfl rfl)) ?_
  rfl

theorem returnCode_writeFail_data (a : Ack) :
    returnCode (writeFail (dataCode a).value) = if a = .ack then 0x00 else 0x01 := by
  cases a <;> decide

theorem returnCode_writeFail_abnormal (c : Abnormal) : returnCode (writeFail c.code.value) = 0x01 := by
  cases c <;> decide

/-- Settles O43: the issue and T0 to T3, with each answer BUS may give. -/
theorem writeRuns : Obligations.WriteRuns := by
  intro s d o rest h he hint hp ha
  have ⟨hc, hf, hi, hb, ho, hq⟩ := h
  obtain ⟨c, p, tr, hx, hbit, habn⟩ := complete_data s d ha
  have hl : legalFault .write s = none := (legalFault_none _ _).mpr (.inr ⟨he, .inr (.inl ⟨rfl, hp⟩)⟩)
  refine ⟨_, Eq.trans
      (run_succ (step_issue_begins (i := .write d) ⟨hc, hf, hi, hb, ho, hq⟩ rfl (decodeCmd_write d) hl))
      (run_write ⟨hc, hf, hi, rfl, rfl, rfl, hq⟩ rfl hint hp ha hx),
    rfl, rfl, hf, hq, rfl, rfl, rfl, rfl, rfl, rfl, rfl, rfl, fun a hoa => ?_, fun a hoa => ?_⟩
  · obtain ⟨rfl, rfl, rfl⟩ := hbit a hoa
    exact ⟨rfl, rfl, by cases a <;> rfl, returnCode_writeFail_data a⟩
  · obtain ⟨rfl, rfl, rfl⟩ := habn a hoa
    exact ⟨rfl, rfl, rfl, returnCode_writeFail_abnormal a⟩

/-! ### READ_ACK and READ_NACK -/

/-- What tells the two READs apart (40_engine.md R116, R117; 41_sequencer.md R146, R147). -/
structure Read where
  /-- the command on the port -/
  word  : CmdWord
  instr : Instr
  op    : Op
  /-- the label that launches the phase -/
  first : Label
  /-- the label that polls INT -/
  poll  : Label
  /-- the label that takes the byte from DATA -/
  last  : Label
  /-- the CTRL value of the launch -/
  value : Byte
  phase : Inflight
  /-- the status and the phase state after a byte -/
  code  : Code
  ph    : Phase

/-- The READ that returns the given acknowledge bit. -/
def readOf : Ack → Read
  | .ack =>
    { word := 0x0500, instr := .readAck, op := .readAck, first := .readAck .a0, poll := .readAck .a1,
      last := .readAck .a2, value := 0xC4, phase := .recvAck, code := .mrDataAck, ph := .mr }
  | .nack =>
    { word := 0x0600, instr := .readNack, op := .readNack, first := .readNack .n0, poll := .readNack .n1,
      last := .readNack .n2, value := 0x84, phase := .recvNack, code := .mrDataNack, ph := .mrEnd }

/-- What an answer to a RECV leaves of DATA, CODE, ph, the trace and the record of a failed READ (40_engine.md R113,
R116, R117). -/
theorem complete_read (k : Ack) (s : State) (ha : admitted s.cfg (readOf k).phase o = true) :
    ∃ (d : Byte) (c : Code) (p : Phase) (tr : List Event) (b : Bool),
      (∀ u : State, u.inflight = (readOf k).phase → u.data = s.data → u.trace = s.trace →
        complete o u = ({ u with data := d, code := c, ph := p, trace := tr, readFailed := b }).phaseDone) ∧
      (∀ v, o = .byte v →
        d = v ∧ p = (readOf k).ph ∧ c = (readOf k).code ∧ tr = s.trace ++ [.rx v k] ∧ b = false) ∧
      (∀ a, o = .abnormal a → d = s.data ∧ p = .idle ∧ c = a.code ∧ tr = s.trace ++ [.abnormal a] ∧ b = true) := by
  cases o with
  | ok | bit => cases k <;> cases ha
  | byte v =>
    refine ⟨v, (readOf k).code, (readOf k).ph, s.trace ++ [.rx v k], false, fun u hf _ htr => ?_,
      by rintro _ ⟨⟩; exact ⟨rfl, rfl, rfl, rfl, rfl⟩, nofun⟩
    rw [← htr]
    cases k with
    | ack => exact complete_recvAck v hf
    | nack => exact complete_recvNack v hf
  | abnormal a =>
    refine ⟨s.data, a.code, .idle, s.trace ++ [.abnormal a], true, fun u hf hd htr => ?_, nofun,
      by rintro _ ⟨⟩; exact ⟨rfl, rfl, rfl, rfl, rfl⟩⟩
    rw [← htr, ← hd]
    cases k <;> rw [complete_abnormal a (by rw [hf]; nofun) (by rw [hf]; nofun), State.abnormal, hf] <;> rfl

/-- The issue step of a READ (41_sequencer.md R131). -/
theorem step_issue_read (k : Ack) (h : Ready s) (hr : noResetNext s = true) (he : s.ctrl.en = true)
    (hp : s.ph = .mr) :
    step (drivePort (readOf k).word s) = .next { s with
      cmdOp := cmdOpField (readOf k).word, cmdArg := 0x00, op := (readOf k).op, arg := 0x00, attempts := 0,
      mpc := (readOf k).first, busy := true } := by
  have hl : legalFault (readOf k).op s = none :=
    (legalFault_none _ _).mpr (.inr ⟨he, .inr (.inr ⟨by cases k <;> simp [readOf], hp⟩)⟩)
  cases k with
  | ack => exact step_issue_begins (i := .readAck) h hr rfl hl
  | nack => exact step_issue_begins (i := .readNack) h hr rfl hl

/-- The launch, the RECV and the last step: from the first label of a READ to its end. -/
theorem run_read (k : Ack) {d : Byte} {c : Code} {p : Phase} {tr : List Event} {b : Bool}
    (h : AtStep s (readOf k).op (readOf k).first) (ht : s.turns = .seq :: .engine o :: .seq :: .seq :: ts)
    (hp : s.ph = .mr) (ha : admitted s.cfg (readOf k).phase o = true)
    (hx : ∀ u : State, u.inflight = (readOf k).phase → u.data = s.data → u.trace = s.trace →
      complete o u = ({ u with data := d, code := c, ph := p, trace := tr, readFailed := b }).phaseDone) :
    runSteps 4 s = .next { s with
      turns := ts, mpc := (readOf k).last, ctrl := { s.ctrl.written (readOf k).value with int := true }, data := d,
      code := c, ph := p, trace := tr, readFailed := b, result := d, op := .none, busy := false } := by
  have ⟨hc, hf, hi, ho, _, hb, hq⟩ := h
  have hop : (readOf k).op ≠ .none := by cases k <;> nofun
  have hw : ctrlWriteAt (readOf k).first = some ((readOf k).value, go (readOf k).poll) := by cases k <;> rfl
  have hpoll : microAt (readOf k).poll = some (.pollInt (readOf k).last) := by cases k <;> rfl
  have hlast : microAt (readOf k).last = some .takeData := by cases k <;> rfl
  have hl : launchOf (readOf k).value s.ph = some (readOf k).phase := by rw [hp]; cases k <;> rfl
  rw [run_add (j := 3) (k := 1) (run_phase h hop ht hw hpoll hl ha (hx _ rfl rfl rfl))]
  exact run_succ (AtStep.step_takeData ⟨hc, hf, hi, ho, rfl, hb, hq⟩ hop rfl hlast)

/-- Settles O44: for either READ the issue and its run, with each answer BUS may give. -/
theorem readsRun : Obligations.ReadsRun := by
  intro s o rest h he hp
  have ⟨hc, hf, hi, hb, ho, hq⟩ := h
  refine ⟨fun ha => ?_, fun ha => ?_⟩
  · obtain ⟨d, c, p, tr, b, hx, hbyte, habn⟩ := complete_read .ack s ha
    exact ⟨_, Eq.trans (run_succ (step_issue_read .ack ⟨hc, hf, hi, hb, ho, hq⟩ rfl he hp))
      (run_read .ack ⟨hc, hf, hi, rfl, rfl, rfl, hq⟩ rfl hp ha hx),
      rfl, rfl, hf, hq, rfl, rfl, rfl, rfl, rfl, rfl, rfl, rfl, hbyte, habn⟩
  · obtain ⟨d, c, p, tr, b, hx, hbyte, habn⟩ := complete_read .nack s ha
    exact ⟨_, Eq.trans (run_succ (step_issue_read .nack ⟨hc, hf, hi, hb, ho, hq⟩ rfl he hp))
      (run_read .nack ⟨hc, hf, hi, rfl, rfl, rfl, hq⟩ rfl hp ha hx),
      rfl, rfl, hf, hq, rfl, rfl, rfl, rfl, rfl, rfl, rfl, rfl, hbyte, habn⟩

end Sys2Proof.Machine
end

section
/-! SUPPORT. The conversion of the two temperature bytes: 2 * raw - 27315 modulo 2^16, balanced around 0
(42_host_transaction.md R166, R167, R171, R174). -/

namespace Sys2Proof.Machine

variable {l m : Byte}

/-! ### wrap16 and sext16 make the library's balanced remainder -/

theorem sext16_wrap16 (v : Int) : sext16 (wrap16 v) = v.bmod 65536 := by
  simp only [sext16, wrap16, Int.bmod_def]
  split_ifs <;> omega

theorem sext16_of_word {v : Int} (h0 : 0 ≤ v) (h : v < 65536) : sext16 v = v.bmod 65536 := by
  rw [← sext16_wrap16, wrap16, Int.emod_eq_of_lt h0 h]

/-! ### The conversion -/

theorem toNat_rawOf (l m : Byte) : (rawOf l m).toNat = m.toNat * 256 + l.toNat := by
  rw [rawOf, BitVec.toNat_append, ← Nat.shiftLeft_add_eq_or_of_lt l.isLt, Nat.shiftLeft_eq]

/-- raw may be read as unsigned: the reduction of the result absorbs its sign extension. -/
theorem convert_eq_unsigned (l m : Byte) :
    convert l m = (((rawOf l m).toNat : Int) * scaleFactor - tempOffset).bmod 65536 := by
  have hraw := (rawOf l m).isLt
  rw [convert, sext16_wrap16, sext16_of_word (by omega) (by omega), ← Int.bmod_sub_bmod, Int.bmod_mul_bmod,
    Int.bmod_sub_bmod]

theorem convert_eq_bmod (l m : Byte) :
    convert l m = ((m.toNat * 256 + l.toNat : Int) * 2 - 27315).bmod 65536 := by
  rw [convert_eq_unsigned, toNat_rawOf, scaleFactor, tempOffset]
  push_cast
  rfl

/-- The value converted to is the one 16-bit number congruent to 2 * raw - 27315 modulo 2^16. -/
theorem convert_eq_iff {c : Int} :
    convert l m = c ↔
      -32768 ≤ c ∧ c < 32768 ∧ (65536 : Int) ∣ c - ((m.toNat * 256 + l.toNat) * 2 - 27315) := by
  rw [convert_eq_bmod, Int.bmod_eq_iff (by decide)]
  exact Iff.rfl

/-- No reduction up to raw 0x7559. -/
theorem convert_of_le (h : m.toNat * 256 + l.toNat ≤ 0x7559) :
    convert l m = (m.toNat * 256 + l.toNat : Int) * 2 - 27315 :=
  convert_eq_iff.mpr ⟨by omega, by omega, by simp⟩

/-- Settles O57: the closed form is in the 16-bit range and congruent to 2 * raw - 27315. -/
theorem conversionFormula : Obligations.ConversionFormula := by
  intro lsb msb raw u
  refine convert_eq_iff.mpr ⟨?_, ?_, ?_⟩ <;> split_ifs <;> omega

/-- Settles O58: the results differ by 510 times the bytes' difference, which 2^16 divides only for equal bytes. -/
theorem conversionByteOrder : Obligations.ConversionByteOrder := by
  intro lsb msb
  have hl := lsb.isLt
  have hm := msb.isLt
  obtain ⟨-, -, h⟩ := convert_eq_iff.mp (rfl : convert lsb msb = _)
  obtain ⟨-, -, h'⟩ := convert_eq_iff.mp (rfl : convert msb lsb = _)
  refine ⟨by omega, fun hne he => hne (BitVec.eq_of_toNat_eq ?_)⟩
  omega

/-- Settles O59: -27313 is congruent to 2 * raw - 27315 exactly when raw is 1 modulo 2^15. -/
theorem sentinelIsAlsoAReading : Obligations.SentinelIsAlsoAReading := by
  intro lsb msb
  have hl : lsb = 0x01 ↔ lsb.toNat = 1 := BitVec.toNat_inj.symm
  have hm : msb = 0x00 ∨ msb = 0x80 ↔ msb.toNat = 0 ∨ msb.toNat = 128 :=
    or_congr BitVec.toNat_inj.symm BitVec.toNat_inj.symm
  have hl' := lsb.isLt
  have hm' := msb.isLt
  rw [convert_eq_iff, sentinel, hl, hm]
  omega

/-- Settles O60: raw is converted without a reduction up to 0x7559. -/
theorem conversionMonotoneRange : Obligations.ConversionMonotoneRange := by
  refine ⟨fun l m l' m' hlt hle => ?_, by decide, by decide, by decide, fun l m => ?_⟩
  · rw [convert_of_le (hlt.le.trans hle), convert_of_le hle]
    omega
  · rw [convert_eq_unsigned, sext16_wrap16]

end Sys2Proof.Machine
end

section
/-! SUPPORT. HOST's turn at each directive (30_encoding.md R92, 70_reset_and_hazards.md R205). -/

namespace Sys2Proof.Machine

variable {s : State} {st : HostStmt} {e : HostExpr}

theorem hostStep_of_not_hostReady (h : hostReady s = false) : hostStep s = s := by
  simp [hostStep, h]

theorem hostReady_of_busy (hw : s.hostWaits = true) (hb : s.busy = true) : hostReady s = false := by
  simp [hostReady, hw, hb]

/-- HOST's turn takes the statement it stands at. -/
theorem hostStep_of_hostReady (hr : hostReady s = true) (hs : s.script[s.hostPc]? = some st) :
    hostStep s = { hostRun st s with hostTaken := st :: s.hostTaken } := by
  simp [hostStep, hr, hs]

/-- A HOST that may take a statement has not ended. -/
theorem hostReady_running (hr : hostReady s = true) : s.hostRet = none ∧ s.hostHung = false := by
  simp only [hostReady, Bool.and_eq_true, Option.isNone_iff_eq_none, Bool.not_eq_true'] at hr
  exact hr.1

/-- A RETURN ends the program, by its value or by a hang. -/
theorem hostReady_hostStep_ret (hr : hostReady s = true) (hs : s.script[s.hostPc]? = some (.ret e)) :
    hostReady (hostStep s) = false := by
  rw [hostStep_of_hostReady hr hs]
  cases hv : hostValue s e <;> simp [hostReady, hostRun, hv]

/-- Settles O55: HOST's turn takes the statement it stands at, one case per directive. -/
theorem hostDirectives : Obligations.HostDirectives := by
  intro s hwf
  refine ⟨fun hw hb => hostStep_of_not_hostReady (hostReady_of_busy hw hb),
    fun hr => ⟨?cmd, ?save, ?ifResult, ?num, ?conv⟩⟩
  case cmd => exact fun w hs => hostStep_of_hostReady hr hs
  case save =>
    intro v hs
    rw [hostStep_of_hostReady hr hs]
    exact ⟨rfl, cellRead_cellWrite 0 s.hostVars hwf v s.result⟩
  case ifResult => exact fun v t hs => hostStep_of_hostReady hr hs
  case num =>
    intro n hs
    refine ⟨?_, hostReady_hostStep_ret hr hs⟩
    rw [hostStep_of_hostReady hr hs, hostRun, (hostReady_running hr).2]
    rfl
  case conv =>
    intro l m hs
    refine ⟨hostReady_hostStep_ret hr hs, ?_⟩
    rw [← ranGetTemp_iff]
    rcases hostStep_conv hr hs with ⟨hf, hg, hn, h⟩ | ⟨hn, h⟩
    · exact ⟨fun _ => ⟨hn, h⟩, fun hc => absurd ⟨hf, hg⟩ hc⟩
    · exact ⟨fun hc => absurd hc hn, fun _ => h⟩

end Sys2Proof.Machine
end

section
/-! SUPPORT. Which of SEQ and ENGINE has a step while BUSY is 1 (60_exceptions.md R182; 41_sequencer.md R135). -/

namespace Sys2Proof.Machine

variable {s : State} {f : Inflight} {c : Bool}

theorem EngineInv.int_iff_quiet (h : EngineInv s) (hf : f ≠ .none) (hp : pollingInt f s = true) :
    s.ctrl.int = true ↔ s.inflight = .none := by
  refine ⟨h.quiet_of_int, fun hq => ?_⟩
  simpa [pollingInt, hq, hf.symm] using hp

theorem EngineInv.sto_iff_quiet (h : EngineInv s) (hp : pollingSto s = true) :
    (!s.ctrl.sto) = true ↔ s.inflight = .none := by
  refine ⟨fun hs => h.quiet_of_sto hp (by simpa using hs), fun hq => ?_⟩
  have hn : ¬ s.ctrl.sto = true := by simp [h.stoStop, hq]
  simpa using hn

/-- The condition polled at a label holds exactly when the phase it waits for is over (40_engine.md R118). -/
theorem Sound.poll_iff_quiet (h : Sound s) (ho : s.op ≠ .none) (hc : pollAt s = some c) :
    c = true ↔ s.inflight = .none := by
  have hp : atLabel (s.goto s.mpc) = true := atLabel_goto_mpc (h.seq.place ho) rfl
  unfold pollAt at hc
  generalize s.mpc = l at hp hc
  split at hc <;> cases hc
  case h_1 | h_2 | h_3 => exact h.engine.sto_iff_quiet hp
  case h_4 | h_6 => exact h.engine.int_iff_quiet (f := .start) nofun (Bool.and_eq_true_iff.mp hp).1
  case h_5 | h_7 | h_8 => exact h.engine.int_iff_quiet (f := .send) nofun hp
  case h_9 => exact h.engine.int_iff_quiet (f := .recvAck) nofun hp
  case h_10 => exact h.engine.int_iff_quiet (f := .recvNack) nofun hp

/-- At a label without a poll no phase is in flight. -/
theorem quiet_of_no_poll (h : atLabel s = true) (hc : pollAt s = none) : s.inflight = .none := by
  unfold atLabel at h
  unfold pollAt at hc
  generalize s.mpc = l at h hc
  split at h
  case h_1 | h_2 | h_3 | h_5 | h_6 | h_13 | h_14 | h_15 | h_20 | h_21 => cases hc
  case h_4 | h_22 | h_23 | h_24 | h_25 | h_26 | h_27 => exact eq_of_beq h
  all_goals exact eq_of_beq (Bool.and_eq_true_iff.mp h).1

/-- SEQ in an operation has a step exactly when ENGINE has none. -/
theorem Sound.seqEnabled_iff (h : Sound s) : seqEnabled s = true ↔ s.op ≠ .none ∧ s.inflight = .none := by
  have hpoll (ho : s.op ≠ .none) : (pollAt s).getD true = true ↔ s.inflight = .none := by
    cases hc : pollAt s with
    | none => exact iff_of_true rfl (quiet_of_no_poll (h.seq.place ho) hc)
    | some c => exact h.poll_iff_quiet ho hc
  simp only [seqEnabled, h.noFault, Bool.and_eq_true, bne_iff_ne, Bool.not_false, and_true]
  exact and_congr_right hpoll

theorem engineEnabled_iff (hf : s.fault = false) : engineEnabled s = true ↔ s.inflight ≠ .none := by
  simp [engineEnabled, hf]

/-- Settles O49: while BUSY is 1, SEQ has a step when no phase is in flight, and ENGINE when one is. -/
theorem oneAgentMovesWhileBusy : Obligations.OneAgentMovesWhileBusy := by
  intro s hinv hf
  have h := hinv.sound hf
  rw [h.seqEnabled_iff, engineEnabled_iff hf]
  exact ⟨fun ⟨⟨_, hq⟩, hn⟩ => hn hq, fun hb => (em _).imp_left fun hq => ⟨h.seq.busyOp.mp hb, hq⟩⟩

end Sys2Proof.Machine
end

section
/-! SUPPORT. FAULT and FCODE agree after every step, and a faulted state has no step but the reset event
(60_exceptions.md R176, R177). -/

namespace Sys2Proof.Machine

open Host (Outcome)

variable {s t : State} {w : Byte} {l : Label} {m : Micro} {k : State → State} {r : Outcome State Fault Refusal}

/-! ### The record of a fault -/

theorem faultRecorded_raise (c : FaultCode) (s : State) : faultRecorded (s.raise c) = true := by
  cases c <;> rfl

/-- If the step answers a state, FAULT and FCODE agree in it. -/
def RecordedNext (r : Outcome State Fault Refusal) : Prop := ∀ t, r = .next t → faultRecorded t = true

/-- Work after which FAULT and FCODE agree exactly when they did before. -/
def KeepsRecord (k : State → State) : Prop := ∀ s, faultRecorded (k s) = faultRecorded s

theorem keepsRecord_go (l : Label) : KeepsRecord (go l) := fun _ => rfl

theorem keepsRecord_fin (v : Byte) : KeepsRecord (fin v) := fun _ => rfl

theorem keepsRecord_retry : KeepsRecord retry := by
  intro s
  obtain h | ⟨_, _, _, h⟩ := retry_cases s <;> rw [h] <;> rfl

/-! ### Register accesses -/

theorem faultRecorded_ctrlCommand (h : faultRecorded s = true) (phase : Option Inflight) :
    faultRecorded (ctrlCommand w phase s) = true := by
  obtain ⟨-, he⟩ | ⟨-, -, he⟩ | ⟨f, -, -, -, he⟩ | ⟨-, -, -, he⟩ := ctrlCommand_cases w phase s <;> rw [he]
  · exact faultRecorded_raise _ _
  · exact h
  · exact h
  · exact faultRecorded_raise _ _

theorem faultRecorded_regWrite (h : faultRecorded s = true) (r : Reg) (v : Byte) :
    faultRecorded (regWrite r v s) = true := by
  by_cases hn : s.inflight = .none
  · cases r with
    | ctrl =>
      cases hu : ctrlValueUsed v
      · rw [regWrite_ctrl_of_unused s hu]; exact faultRecorded_raise _ _
      · rw [regWrite_ctrl_of_used s hu]; exact faultRecorded_ctrlCommand h _
    | status => rw [writeStatus_rest v hn]; exact h
    | bitrate => rw [writeBitrate_rest v hn]; exact h
    | data =>
      cases hi : s.ctrl.int
      · rw [writeData_collision v hn hi]; exact h
      · rw [writeData_rest v hn hi]; exact h
  · rw [regWrite_flight r v hn]; exact faultRecorded_raise _ _

/-! ### SEQ's micro-steps -/

theorem recordedNext_whenLive (h : faultRecorded t = true) : RecordedNext (whenLive s t) :=
  fun _ hu => (whenLive_next.mp hu).2 ▸ h

theorem RecordedNext.afterAccess (h : RecordedNext r) (hk : KeepsRecord k) : RecordedNext (afterAccess r k) := by
  intro t ht
  obtain ⟨u, hu, rfl⟩ := afterAccess_next.mp ht
  split
  · exact h u hu
  · rw [hk]; exact h u hu

theorem recordedNext_ctrlThen (h : faultRecorded s = true) (hk : KeepsRecord k) : RecordedNext (ctrlThen w k s) := by
  refine RecordedNext.afterAccess ?_ hk
  cases hd : decodeCtrl s.ph w with
  | ok i =>
    obtain ⟨v, phase, he⟩ := exec_engine (decodeCtrl_isCommand hd)
    rw [engineWrite_of_decode hd, he]
    exact recordedNext_whenLive (faultRecorded_ctrlCommand h _)
  | error e =>
    rw [engineWrite, hd]
    exact recordedNext_whenLive (faultRecorded_regWrite h _ _)

theorem recordedNext_writeThen (h : faultRecorded s = true) (hk : KeepsRecord k) (r : Reg) (v : Byte) :
    RecordedNext (writeThen r v k s) :=
  (recordedNext_whenLive (faultRecorded_regWrite h r v)).afterAccess hk

theorem recordedNext_waitUntil (h : faultRecorded s = true) (hk : KeepsRecord k) (c : Bool) :
    RecordedNext (waitUntil c k s) := by
  refine recordedNext_whenLive ?_
  split
  · rw [hk]; exact h
  · exact h

/-- The work that follows a CTRL write goes on or finishes, and raises no fault. -/
theorem keepsRecord_of_ctrlWriteAt (h : ctrlWriteAt l = some (w, k)) : KeepsRecord k := by
  unfold ctrlWriteAt at h
  split at h <;> cases h <;> exact fun _ => rfl

/-- The work that follows a poll of STO goes on, retries or finishes, and raises no fault. -/
theorem keepsRecord_of_pollSto (h : microAt l = some (.pollSto k)) : KeepsRecord k := by
  unfold microAt at h
  split at h <;> cases h
  case h_1 => exact keepsRecord_go _
  case h_12 => exact keepsRecord_retry
  case h_20 => exact keepsRecord_fin _

/-- A check of the status goes on, retries or finishes, and raises no fault. -/
theorem keepsRecord_of_check (h : microAt l = some (.check k)) : KeepsRecord k := by
  intro s
  unfold microAt at h
  split at h <;> cases h
  case h_3 => unfold startCheck; split <;> rfl
  case h_6 => rfl
  case h_8 =>
    unfold waitStartCheck
    split
    · exact keepsRecord_retry s
    · rfl
  case h_11 => unfold waitAddrCheck; split <;> rfl
  case h_15 => rfl

theorem recordedNext_micro (h : faultRecorded s = true) (hm : microAt l = some m) : RecordedNext (m.run s) := by
  cases m with
  | pollInt l => exact recordedNext_waitUntil h (keepsRecord_go l) _
  | pollSto k => exact recordedNext_waitUntil h (keepsRecord_of_pollSto hm) _
  | check k => exact recordedNext_whenLive ((keepsRecord_of_check hm _).trans h)
  | writeData l => exact recordedNext_writeThen h (keepsRecord_go l) _ _
  | takeData => exact recordedNext_whenLive h

/-- The labels left over are those at which INIT writes its settings (41_sequencer.md R137). -/
theorem init_of_no_micro (hw : ctrlWriteAt l = none) (hm : microAt l = none) :
    l = .init .i0 ∨ l = .init .i1 ∨ l = .init .i2 ∨ l = .init .i3 := by
  cases l with
  | init x => cases x <;> simp_all [ctrlWriteAt, microAt]
  | start x | startWait x | write x | readAck x | readNack x | stop x =>
    cases x <;> simp [ctrlWriteAt, microAt] at hw hm

theorem recordedNext_microStep (h : faultRecorded s = true) : RecordedNext (microStep s) := by
  cases hw : ctrlWriteAt s.mpc with
  | some p =>
    rw [microStep_of_ctrlWriteAt hw]
    exact recordedNext_ctrlThen h (keepsRecord_of_ctrlWriteAt hw)
  | none =>
    cases hm : microAt s.mpc with
    | some m =>
      rw [microStep_of_microAt hm]
      exact recordedNext_micro h hm
    | none =>
      obtain hl | hl | hl | hl := init_of_no_micro hw hm <;> rw [microStep, hl]
      · exact recordedNext_whenLive h
      · exact recordedNext_whenLive h
      · exact recordedNext_writeThen h (keepsRecord_go _) _ _
      · exact recordedNext_writeThen h (keepsRecord_go _) _ _

theorem recordedNext_seqStep (h : faultRecorded s = true) : RecordedNext (seqStep s) := by
  unfold seqStep
  split
  · exact recordedNext_whenLive h
  · exact recordedNext_microStep h

/-! ### The other steps -/

/-- An issue raises a fault, or begins an operation. -/
theorem recordedNext_issueStep (h : faultRecorded s = true) : RecordedNext (issueStep s) := by
  intro t ht
  obtain ⟨c, rfl⟩ | ⟨op, a, -, -, -, rfl⟩ := issueStep_cases ht
  · exact faultRecorded_raise _ _
  · exact h

theorem keepsRecord_engineStep (o : Answer) : KeepsRecord (engineStep o) := by
  intro s
  obtain ⟨-, -, hf, hc, -⟩ := engineStep_frame o s
  rw [faultRecorded, hf, hc, faultRecorded]

theorem keepsRecord_hostStep : KeepsRecord hostStep := by
  intro s
  rw [hostStep_frame]
  rfl

/-- Settles O50: a faulted state has no step but the reset event, which clears FAULT and FCODE, and an agent's step
leaves them alone or raises a fault with its code. -/
theorem onlyResetClearsFault : Obligations.OnlyResetClearsFault := by
  intro s t h
  obtain ⟨-, ⟨ts, ht, rfl⟩ | ⟨hf, -, hstep⟩⟩ := step_cases h
  · exact ⟨fun _ => ⟨ts, ht, rfl⟩, fun _ => rfl⟩
  · refine ⟨fun hf' => absurd (hf'.symm.trans hf) (by decide), fun hr => ?_⟩
    obtain ⟨-, hs⟩ | ⟨-, ⟨-, rfl⟩ | ⟨ts, -, hs⟩ | ⟨o, ts, -, rfl⟩ | ⟨ts, -, rfl⟩⟩ := hstep
    · exact recordedNext_issueStep hr t hs
    · exact hr
    · exact recordedNext_seqStep (s := { s with turns := ts }) hr t hs
    · exact (keepsRecord_engineStep o _).trans hr
    · exact (keepsRecord_hostStep _).trans hr

end Sys2Proof.Machine
end

section
/-! SUPPORT. The reset event (70_reset_and_hazards.md R196). -/

namespace Sys2Proof.Machine

/-- Settles O6: the step is the reset event, whose block holds the reset values of `resetValues`, with the two registers
read from their fields; the rest is carried over from the state before. -/
theorem resetEventRestoresTheBlock : Obligations.ResetEventRestoresTheBlock := by
  intro s ts hc ht
  obtain ⟨hbusy, hresult, hfault, hfcode, hop, harg, hattempts, hctrl, hstatus, -, -, hbitrate, hdata, hsda, hscl, hph,
    hflight, htrace⟩ := resetValues s.cfg
  refine ⟨resetEvent { s with turns := ts }, step_reset hc ht, ?_⟩
  -- the block's state
  refine ⟨hbusy, hresult, hfault, hfcode, hop, harg, hattempts, hctrl, hstatus, hbitrate, hdata, hsda, hscl, hph,
    hflight, htrace, ?_⟩
  -- the parameters, the inputs to come, HOST and the port
  exact ⟨rfl, rfl, rfl, rfl, rfl, rfl, rfl, rfl, rfl, rfl, rfl, rfl, rfl⟩

end Sys2Proof.Machine
end
